-- ==== Sys2Proof/Word.lean ====
section
/-! DEFINITION. The two widths of the machine: bytes and 16-bit addresses (00_scope.md R5, R6). -/

namespace Sys2Proof

/-- A byte: data width 8 bits (R5). `+` and `-` on it are the spec's `+_8` and `-_8` (R6). -/
abbrev Byte := BitVec 8

/-- An address, or the program counter: 16 bits (R5). `+` on it is the spec's `+_16` (R6). -/
abbrev Addr := BitVec 16

end Sys2Proof
end

