-- ==== Sys2Proof/Config.lean ====
section
/-! DEFINITION. The parameters of the hardware (00_scope.md R5): the fixed literals in one place, and the
launch parameters the host supplies. -/

namespace Sys2Proof.Config

/-- `RAM_SIZE`: WorkRAM's physical bytes (R5). -/
abbrev ramSize : Nat := 2048

/-- The last address of `RAM_WINDOW`, which begins at 0 (R5). -/
abbrev ramTop : Nat := 0x1FFF

/-- The first address of the FixedBank `CART_WINDOW`, which runs to the top (R5). -/
abbrev cartBase : Nat := 0xC000

/-- `BANK_SIZE` (R5). -/
abbrev bankSize : Nat := 16384

/-- `STACK_BASE` (R5). -/
abbrev stackBase : Addr := 0x0100

/-- `RESET_VECTOR`, low byte (R5; decision D2, from general knowledge; log entry 2). -/
abbrev resetVectorLo : Addr := 0xFFFC

/-- `RESET_VECTOR`, high byte (R5; decision D2; log entry 2). -/
abbrev resetVectorHi : Addr := 0xFFFD

/-- SP at power-on (70_reset_and_hazards.md R220). -/
abbrev powerOnSp : Byte := 0xFF

/-- What the host supplies at launch and a model must not fix (R5): the banks in file order, the power-on
flag pattern, WorkRAM's first contents and the latch's first value. -/
structure Launch where
  /-- `PRG_BANKS` -/
  prgBanks : List (List Byte)
  /-- `POWERON_P` -/
  powerOnP : Byte
  /-- `RAM_INIT` -/
  ramInit : List Byte
  /-- `LATCH_INIT` -/
  latchInit : Byte
  deriving DecidableEq, Repr

/-- The launches the spec gives a meaning: at least one bank (decision D17), each bank and `RAM_INIT` of its
size, and bit 5 of `POWERON_P` set (R5). -/
def Launch.valid (l : Launch) : Bool :=
  !l.prgBanks.isEmpty && l.prgBanks.all (fun b => b.length == bankSize)
    && l.ramInit.length == ramSize && l.powerOnP.getLsbD 5

/-- The launch that `State.reset` stands for: one bank of 0x00 bytes, RAM and latch 0x00, and of
`POWERON_P` only the bit the spec gives. DESIGN CHOICE, unsafe: log entries 3, 4, 5, 6. -/
def Launch.blank : Launch where
  prgBanks := [List.replicate bankSize 0x00]
  powerOnP := 0x20
  ramInit := List.replicate ramSize 0x00
  latchInit := 0x00

end Sys2Proof.Config
end

