-- ==== Sys2Proof/Syntax.lean ====
section
/-! DEFINITION. The 53 instructions (30_encoding.md R64), one constructor per row of opcode_table.json.
A constructor is the opcode and addressing-mode pair that dispatch selects: "each step reads one opcode byte
... then dispatches on that byte" (R60). Operand bytes are not part of it, since an instruction fetches them
itself, on the bus, "in the place in the sequence" its rule says (R62; JSR after its pushes, R131); they stand
in `Code` (WellFormed.lean). Log entry 7. -/

namespace Sys2Proof

/-- One opcode and addressing-mode pair of R64. -/
inductive Instr where
  /-- ORA zero page, 48_logic_compare.md R171 -/
  | oraZp
  /-- PHP implied, 40_stack.md R80 -/
  | php
  /-- ORA immediate, 48_logic_compare.md R170 -/
  | oraImm
  /-- BPL relative, 47_branches.md R158 -/
  | bpl
  /-- JSR absolute, 44_jumps.md R131 -/
  | jsrAbs
  /-- BIT zero page, 48_logic_compare.md R174 -/
  | bitZp
  /-- PLP implied, 40_stack.md R82 -/
  | plp
  /-- BIT absolute, 48_logic_compare.md R175 -/
  | bitAbs
  /-- BMI relative, 47_branches.md R159 -/
  | bmi
  /-- EOR zero page, 48_logic_compare.md R173 -/
  | eorZp
  /-- LSR zero page, 49_shifts.md R185 -/
  | lsrZp
  /-- PHA implied, 40_stack.md R83 -/
  | pha
  /-- EOR immediate, 48_logic_compare.md R172 -/
  | eorImm
  /-- JMP absolute, 44_jumps.md R130 -/
  | jmpAbs
  /-- RTS implied, 44_jumps.md R132 -/
  | rts
  /-- ROR zero page, 49_shifts.md R186 -/
  | rorZp
  /-- PLA implied, 40_stack.md R81 -/
  | pla
  /-- ROR accumulator, 49_shifts.md R187 -/
  | rorAcc
  /-- SEI implied, 46_flags.md R150 -/
  | sei
  /-- STY zero page, 41_stores.md R97 -/
  | styZp
  /-- STA zero page, 41_stores.md R90 -/
  | staZp
  /-- STX zero page, 41_stores.md R95 -/
  | stxZp
  /-- DEY implied, 45_incdec.md R143 -/
  | dey
  /-- STY absolute, 41_stores.md R98 -/
  | styAbs
  /-- STA absolute, 41_stores.md R91 -/
  | staAbs
  /-- STX absolute, 41_stores.md R96 -/
  | stxAbs
  /-- BCC relative, 47_branches.md R160 -/
  | bcc
  /-- STA indirect-Y, 41_stores.md R94 -/
  | staIndY
  /-- STA zero-page-X, 41_stores.md R92 -/
  | staZpx
  /-- TYA implied, 43_transfers.md R123 -/
  | tya
  /-- TXS implied, 43_transfers.md R124 -/
  | txs
  /-- STA absolute-X, 41_stores.md R93 -/
  | staAbx
  /-- LDY immediate, 42_loads.md R111 -/
  | ldyImm
  /-- LDX immediate, 42_loads.md R108 -/
  | ldxImm
  /-- LDY zero page, 42_loads.md R112 -/
  | ldyZp
  /-- LDA zero page, 42_loads.md R106 -/
  | ldaZp
  /-- LDX zero page, 42_loads.md R109 -/
  | ldxZp
  /-- TAY implied, 43_transfers.md R122 -/
  | tay
  /-- LDA immediate, 42_loads.md R105 -/
  | ldaImm
  /-- TAX implied, 43_transfers.md R121 -/
  | tax
  /-- LDY absolute, 42_loads.md R113 -/
  | ldyAbs
  /-- LDA absolute, 42_loads.md R107 -/
  | ldaAbs
  /-- LDX absolute, 42_loads.md R110 -/
  | ldxAbs
  /-- TSX implied, 43_transfers.md R120 -/
  | tsx
  /-- CPY immediate, 48_logic_compare.md R177 -/
  | cpyImm
  /-- INY implied, 45_incdec.md R141 -/
  | iny
  /-- CMP immediate, 48_logic_compare.md R176 -/
  | cmpImm
  /-- DEX implied, 45_incdec.md R142 -/
  | dex
  /-- BNE relative, 47_branches.md R156 -/
  | bne
  /-- CLD implied, 46_flags.md R151 -/
  | cld
  /-- INC zero page, 45_incdec.md R144 -/
  | incZp
  /-- INX implied, 45_incdec.md R140 -/
  | inx
  /-- BEQ relative, 47_branches.md R157 -/
  | beq
  deriving DecidableEq, Repr

end Sys2Proof
end

