-- ==== Sys2Proof/WellFormed.lean ====
section
/-! DEFINITION. An instruction as it lies in memory: the opcode and its operand, and the check that the operand
is the one the format takes (30_encoding.md R61). -/

namespace Sys2Proof

/-- The nine formats of R61; `indY` is the source's `Indirect,Y`. -/
inductive Format where
  | imp | acc | imm | zp | zpx | indY | rel | abs | abx
  deriving DecidableEq, Repr

/-- The format column of R64. -/
def Instr.format : Instr → Format
  | .oraZp => .zp
  | .php => .imp
  | .oraImm => .imm
  | .bpl => .rel
  | .jsrAbs => .abs
  | .bitZp => .zp
  | .plp => .imp
  | .bitAbs => .abs
  | .bmi => .rel
  | .eorZp => .zp
  | .lsrZp => .zp
  | .pha => .imp
  | .eorImm => .imm
  | .jmpAbs => .abs
  | .rts => .imp
  | .rorZp => .zp
  | .pla => .imp
  | .rorAcc => .acc
  | .sei => .imp
  | .styZp => .zp
  | .staZp => .zp
  | .stxZp => .zp
  | .dey => .imp
  | .styAbs => .abs
  | .staAbs => .abs
  | .stxAbs => .abs
  | .bcc => .rel
  | .staIndY => .indY
  | .staZpx => .zpx
  | .tya => .imp
  | .txs => .imp
  | .staAbx => .abx
  | .ldyImm => .imm
  | .ldxImm => .imm
  | .ldyZp => .zp
  | .ldaZp => .zp
  | .ldxZp => .zp
  | .tay => .imp
  | .ldaImm => .imm
  | .tax => .imp
  | .ldyAbs => .abs
  | .ldaAbs => .abs
  | .ldxAbs => .abs
  | .tsx => .imp
  | .cpyImm => .imm
  | .iny => .imp
  | .cmpImm => .imm
  | .dex => .imp
  | .bne => .rel
  | .cld => .imp
  | .incZp => .zp
  | .inx => .imp
  | .beq => .rel

/-- The operand fields of R61, each with its width. -/
inductive Operand where
  | none
  | imm8 (v : Byte)
  | zp8 (a : Byte)
  | ptr8 (p : Byte)
  | off8 (off : Byte)
  | addr16 (a : Addr)
  deriving DecidableEq, Repr

/-- The operand field each format takes (R61). Every value of a field is legal, so this is the only check. -/
def Operand.fits : Operand → Format → Bool
  | .none, f => f = .imp ∨ f = .acc
  | .imm8 _, f => f = .imm
  | .zp8 _, f => f = .zp ∨ f = .zpx
  | .ptr8 _, f => f = .indY
  | .off8 _, f => f = .rel
  | .addr16 _, f => f = .abs ∨ f = .abx

/-- One whole instruction: what its opcode byte and its operand bytes say. -/
structure Code where
  instr : Instr
  operand : Operand
  deriving DecidableEq, Repr

/-- A `Code` is well formed when its operand is the field its format takes. -/
def Code.wf (c : Code) : Bool := c.operand.fits c.instr.format

end Sys2Proof
end

