-- ==== Sys2Proof/Decode.lean ====
section
/-! DEFINITION. The decoder, total on any bytes and rejecting by name, and the encoder (30_encoding.md R60 to
R66). The opcode bytes are one table, `Instr.opcode` (decision D1, from general knowledge; log entry 1). -/

namespace Sys2Proof

/-- `hi:lo`, the 16-bit value `hi * 256 + lo` (00_scope.md R6). -/
def joinBytes (hi lo : Byte) : Addr := hi ++ lo

/-- `v[7:0]` (R6). -/
def lowByte (v : Addr) : Byte := v.extractLsb' 0 8

/-- `v[15:8]` (R6). -/
def highByte (v : Addr) : Byte := v.extractLsb' 8 8

/-- The opcode map, R64: the one table of opcode bytes. -/
def Instr.opcode : Instr → Byte
  | .oraZp => 0x05
  | .php => 0x08
  | .oraImm => 0x09
  | .bpl => 0x10
  | .jsrAbs => 0x20
  | .bitZp => 0x24
  | .plp => 0x28
  | .bitAbs => 0x2C
  | .bmi => 0x30
  | .eorZp => 0x45
  | .lsrZp => 0x46
  | .pha => 0x48
  | .eorImm => 0x49
  | .jmpAbs => 0x4C
  | .rts => 0x60
  | .rorZp => 0x66
  | .pla => 0x68
  | .rorAcc => 0x6A
  | .sei => 0x78
  | .styZp => 0x84
  | .staZp => 0x85
  | .stxZp => 0x86
  | .dey => 0x88
  | .styAbs => 0x8C
  | .staAbs => 0x8D
  | .stxAbs => 0x8E
  | .bcc => 0x90
  | .staIndY => 0x91
  | .staZpx => 0x95
  | .tya => 0x98
  | .txs => 0x9A
  | .staAbx => 0x9D
  | .ldyImm => 0xA0
  | .ldxImm => 0xA2
  | .ldyZp => 0xA4
  | .ldaZp => 0xA5
  | .ldxZp => 0xA6
  | .tay => 0xA8
  | .ldaImm => 0xA9
  | .tax => 0xAA
  | .ldyAbs => 0xAC
  | .ldaAbs => 0xAD
  | .ldxAbs => 0xAE
  | .tsx => 0xBA
  | .cpyImm => 0xC0
  | .iny => 0xC8
  | .cmpImm => 0xC9
  | .dex => 0xCA
  | .bne => 0xD0
  | .cld => 0xD8
  | .incZp => 0xE6
  | .inx => 0xE8
  | .beq => 0xF0

/-- Every instruction, in the order of the table of R64. -/
def Instr.all : List Instr :=
  [.oraZp, .php, .oraImm, .bpl, .jsrAbs, .bitZp, .plp, .bitAbs, .bmi]
    ++ [.eorZp, .lsrZp, .pha, .eorImm, .jmpAbs, .rts, .rorZp, .pla, .rorAcc]
    ++ [.sei, .styZp, .staZp, .stxZp, .dey, .styAbs, .staAbs, .stxAbs, .bcc]
    ++ [.staIndY, .staZpx, .tya, .txs, .staAbx, .ldyImm, .ldxImm, .ldyZp, .ldaZp]
    ++ [.ldxZp, .tay, .ldaImm, .tax, .ldyAbs, .ldaAbs, .ldxAbs, .tsx, .cpyImm]
    ++ [.iny, .cmpImm, .dex, .bne, .cld, .incZp, .inx, .beq]

/-- Decode (R63): look the opcode byte up in the table; it depends on nothing else. -/
def decodeOpcode (b : Byte) : Option Instr := Instr.all.find? (fun i => i.opcode == b)

/-- Why a list of bytes is no instruction. -/
inductive DecodeError where
  /-- there is no byte to decode -/
  | empty
  /-- the opcode byte is one of the 203 outside the table (R65); it has no length (R66) -/
  | unimplementedOpcode (opcode : Byte)
  /-- the bytes end before the operand does -/
  | truncated (i : Instr)
  deriving DecidableEq, Repr

/-- The operand field at the front of the bytes, by format; a 16-bit field has its low byte first (R61,
20_memory.md R46). -/
def takeOperand (f : Format) (bs : List Byte) : Option (Operand × List Byte) :=
  match f, bs with
  | .imp, bs => some (.none, bs)
  | .acc, bs => some (.none, bs)
  | .imm, v :: bs => some (.imm8 v, bs)
  | .zp, a :: bs => some (.zp8 a, bs)
  | .zpx, a :: bs => some (.zp8 a, bs)
  | .indY, p :: bs => some (.ptr8 p, bs)
  | .rel, off :: bs => some (.off8 off, bs)
  | .abs, lo :: hi :: bs => some (.addr16 (joinBytes hi lo), bs)
  | .abx, lo :: hi :: bs => some (.addr16 (joinBytes hi lo), bs)
  | _, _ => none

/-- The instruction at the front of the bytes, and the bytes after it (R60, R63, R66). -/
def decode (bs : List Byte) : Except DecodeError (Code × List Byte) :=
  match bs with
  | [] => .error .empty
  | op :: rest =>
    match decodeOpcode op with
    | none => .error (.unimplementedOpcode op)
    | some i =>
      match takeOperand i.format rest with
      | none => .error (.truncated i)
      | some (o, rest') => .ok (⟨i, o⟩, rest')

/-- The bytes of an operand field, low byte first (R61, R46). -/
def Operand.bytes : Operand → List Byte
  | .none => []
  | .imm8 v => [v]
  | .zp8 a => [a]
  | .ptr8 p => [p]
  | .off8 off => [off]
  | .addr16 a => [lowByte a, highByte a]

/-- The bytes of an instruction: opcode first, then the operand (R60, R61). -/
def encode (c : Code) : List Byte := c.instr.opcode :: c.operand.bytes

/-- The three bytes that opcode_table.json's numbering of bits gives a word: bits 7..0 the first byte, and so
on, the bits from `nbits` up being 0. -/
def tableBytes (nbits w : Nat) : List Byte :=
  let v := w % 2 ^ nbits
  [BitVec.ofNat 8 v, BitVec.ofNat 8 (v / 256), BitVec.ofNat 8 (v / 65536)]

/-- The instruction the decoder reads from an opcode-table word, laid out as the hardware stores it. -/
def decodeTableWord (nbits w : Nat) : Option Instr :=
  match decode (tableBytes nbits w) with
  | .ok (c, _) => some c.instr
  | .error _ => none

end Sys2Proof
end

