-- ==== Sys2Proof/Machine/State.lean ====
section
/-! DEFINITION. The machine's state as plain data (10_state.md), why a step can stop, and the state after reset. -/

namespace Sys2Proof.Machine

/-- Byte storage by physical index, in one canonical form (`Memory.wf`, Ops.lean): indexes strictly rising and no
cell equal to what an unlisted index reads as. -/
abbrev Memory := List Host.Cell

/-- A bank of PRG-ROM: `BANK_SIZE` bytes by offset (10_state.md R23). -/
abbrev Bank := Memory

/-- The mappers, "a closed, extensible set" chosen when the cartridge is built (20_memory.md R36); FixedBank is the
only one (log entry 15). `PRG_BANKS` is `earlier ++ [last]`, so that a bank list is never empty (R37, decision
D17; log entry 14). -/
inductive Mapper where
  | fixedBank (earlier : List Bank) (last : Bank)
  deriving DecidableEq, Repr

/-- The Cartridge owns one Mapper and adds no state (20_memory.md R39). -/
structure Cartridge where
  mapper : Mapper
  deriving DecidableEq, Repr

/-- The run state (10_state.md R24), with the value R26 gives it before the reset sequence. -/
inductive RunState where
  /-- powered on, the reset sequence not yet run (R26) -/
  | notRunning
  /-- `RUNNING` -/
  | running
  /-- `FAULT(opcode)`, terminal (60_exceptions.md R203) -/
  | fault (opcode : Byte)
  deriving DecidableEq, Repr

/-- One transaction of the bus trace (00_scope.md R8, 20_memory.md R57). -/
inductive BusEvent where
  /-- `R(addr, v)` -/
  | read (addr : Addr) (v : Byte)
  /-- `W(addr, v)` -/
  | write (addr : Addr) (v : Byte)
  deriving DecidableEq, Repr

/-- The open-bus diagnostics (20_memory.md R45). -/
inductive Diagnostic where
  /-- `OB-R(addr)` -/
  | openRead (addr : Addr)
  /-- `OB-W(addr)` -/
  | openWrite (addr : Addr)
  deriving DecidableEq, Repr

/-- The eight named bits of P (10_state.md R17). -/
inductive Flag where
  | c | z | i | d | b | u | v | n
  deriving DecidableEq, Repr

/-- Everything the spec gives the block. The last two fields are its outputs, kept here so that claims can speak
of them (20_memory.md R57, R45; log entry 12); no operation reads them. -/
@[ext]
structure State where
  /-- the accumulator (10_state.md R11) -/
  a : Byte
  /-- index register X (R12) -/
  x : Byte
  /-- index register Y (R13) -/
  y : Byte
  /-- the stack pointer (R14) -/
  sp : Byte
  /-- the program counter (R15) -/
  pc : Addr
  /-- the status register, all eight bits storage (R17) -/
  p : Byte
  /-- the open-bus latch `last_exchanged_value` (R21) -/
  latch : Byte
  /-- WorkRAM by physical index 0..2047 (R22) -/
  ram : Memory
  /-- the Cartridge (R23) -/
  cart : Cartridge
  /-- the run state (R24) -/
  run : RunState
  /-- the bus trace, oldest first (20_memory.md R57) -/
  trace : List BusEvent
  /-- the open-bus diagnostics, oldest first (20_memory.md R45) -/
  diagnostics : List Diagnostic
  deriving DecidableEq, Repr

/-- Why the machine stops. -/
inductive Fault where
  /-- The core is in `FAULT(opcode)`: raised by `raiseFatal` when a step fetches an opcode byte outside the table,
  and again by every step from a stopped state (60_exceptions.md R200 to R203). It carries the state at the stop
  (R202). Safe: the hardware stops too, and no claim of completion can rest on it (decision D15; log entry 9). -/
  | fatalStop (opcode : Byte) (stop : State)
  deriving DecidableEq, Repr

/-- Why the model gives no answer. -/
inductive Refusal where
  /-- Raised by an arm of `exec` whose instruction has no meaning yet; no arm is left so. Safe. -/
  | notModelled (mnemonic : String)
  /-- Raised by `launch` for parameters the spec gives no meaning: no bank, or sizes and bit 5 not as
  00_scope.md R5 requires (decision D17; log entry 14). Safe: no machine is built. -/
  | launchRefused
  deriving DecidableEq, Repr

/-- What running an instruction answers. -/
abbrev Result := Host.Outcome State Fault Refusal

/-- The machine right after power-on and the reset sequence (70_reset_and_hazards.md R222), for the launch
`Config.Launch.blank`. A, X, Y, SP, bits 2 and 5 of P, the run state and the two vector reads are the spec's;
what the blank cartridge and RAM give (PC, latch, RAM) and the other bits of P are DESIGN CHOICE, unsafe: log
entries 3, 4 and 6. `State.afterReset` (Reset.lean) is the same for every launch. -/
def State.reset : State where
  a := 0x00
  x := 0x00
  y := 0x00
  sp := 0xFC
  pc := 0x0000
  p := 0x24
  latch := 0x00
  ram := []
  cart := ⟨.fixedBank [] []⟩
  run := .running
  trace := [.read Config.resetVectorLo 0x00, .read Config.resetVectorHi 0x00]
  diagnostics := []

end Sys2Proof.Machine
end

