-- ==== Sys2Proof/Machine/Ops.lean ====
section
/-! DEFINITION. The named operations over registers, memory and the bus: canonical byte storage, WorkRAM, the
mapper and cartridge, the arbiter (20_memory.md), fetch, push and pull, and the fatal stop (60_exceptions.md). -/

namespace Sys2Proof.Machine

/-! ### Canonical byte storage -/

/-- What an index nothing lists reads as. For WorkRAM and banks alike every byte has a value (`RAM_INIT`, the
loader's image), given by the cells listed at launch; log entry 4. -/
def Memory.unlisted : Byte := 0x00

/-- The byte at an index. -/
def Memory.read : Memory → Nat → Byte
  | [], _ => Memory.unlisted
  | (a, b) :: m, k => if a = k then b else Memory.read m k

/-- The storage with one byte replaced, in canonical form. -/
def Memory.write : Memory → Nat → Byte → Memory
  | [], k, v => if v = Memory.unlisted then [] else [(k, v)]
  | (a, b) :: m, k, v =>
    if k < a then
      if v = Memory.unlisted then (a, b) :: m else (k, v) :: (a, b) :: m
    else if k = a then
      if v = Memory.unlisted then m else (k, v) :: m
    else (a, b) :: Memory.write m k v

/-- The canonical form from an index up: indexes rising, no cell equal to the unlisted value. -/
def Memory.wfFrom : Nat → Memory → Bool
  | _, [] => true
  | lo, (a, b) :: m => decide (lo ≤ a) && b != Memory.unlisted && Memory.wfFrom (a + 1) m

/-- The canonical form: equal contents are equal lists. -/
def Memory.wf (m : Memory) : Bool := Memory.wfFrom 0 m

/-- Every listed index is below `size`. -/
def Memory.within (size : Nat) (m : Memory) : Bool := m.all (fun c => decide (c.1 < size))

/-- The storage holding `bs` from index `k` up and nothing else. -/
def Memory.ofBytes : Nat → List Byte → Memory
  | _, [] => []
  | k, b :: bs =>
    if b = Memory.unlisted then Memory.ofBytes (k + 1) bs else (k, b) :: Memory.ofBytes (k + 1) bs

/-! ### Register and output updates -/

def State.setA (s : State) (v : Byte) : State := { s with a := v }
def State.setX (s : State) (v : Byte) : State := { s with x := v }
def State.setY (s : State) (v : Byte) : State := { s with y := v }
def State.setSp (s : State) (v : Byte) : State := { s with sp := v }
def State.setPc (s : State) (v : Addr) : State := { s with pc := v }
def State.setP (s : State) (v : Byte) : State := { s with p := v }
def State.setLatch (s : State) (v : Byte) : State := { s with latch := v }
def State.setRam (s : State) (m : Memory) : State := { s with ram := m }
def State.setCart (s : State) (c : Cartridge) : State := { s with cart := c }
def State.setRun (s : State) (r : RunState) : State := { s with run := r }

/-- Append one event to the bus trace (20_memory.md R57). -/
def State.record (s : State) (e : BusEvent) : State := { s with trace := s.trace ++ [e] }

/-- Emit one open-bus diagnostic (R45). -/
def State.emit (s : State) (d : Diagnostic) : State := { s with diagnostics := s.diagnostics ++ [d] }

/-! ### The devices -/

/-- `addr` lies in `RAM_WINDOW`, so WorkRAM claims it (20_memory.md R33, R34). -/
def inRam (addr : Addr) : Bool := decide (addr.toNat ≤ Config.ramTop)

/-- WorkRAM's physical index: `addr mod 2048` (R33). -/
def ramIndex (addr : Addr) : Nat := addr.toNat % Config.ramSize

/-- `WorkRAM.read` (R33). -/
def workRamRead (ram : Memory) (addr : Addr) : Option Byte :=
  if inRam addr then some (Memory.read ram (ramIndex addr)) else none

/-- `WorkRAM.write` (R34): whether it claimed, and the storage after. -/
def workRamWrite (ram : Memory) (addr : Addr) (v : Byte) : Bool × Memory :=
  if inRam addr then (true, Memory.write ram (ramIndex addr) v) else (false, ram)

/-- `addr` lies in FixedBank's `CART_WINDOW` (R37). -/
def inCart (addr : Addr) : Bool := decide (Config.cartBase ≤ addr.toNat)

/-- `Mapper.read` (R36); FixedBank serves the last bank (R37). -/
def Mapper.read (m : Mapper) (addr : Addr) : Option Byte :=
  match m with
  | .fixedBank _ last =>
    if inCart addr then some (Memory.read last (addr.toNat - Config.cartBase)) else none

/-- `Mapper.write` (R36): whether it claimed, and the mapper after; FixedBank never claims (R38). -/
def Mapper.write (m : Mapper) (_addr : Addr) (_v : Byte) : Bool × Mapper :=
  match m with
  | .fixedBank earlier last => (false, .fixedBank earlier last)

/-- `Cartridge.read` forwards (R39). -/
def Cartridge.read (c : Cartridge) (addr : Addr) : Option Byte := c.mapper.read addr

/-- `Cartridge.write` forwards (R39). -/
def Cartridge.write (c : Cartridge) (addr : Addr) (v : Byte) : Bool × Cartridge :=
  ((c.mapper.write addr v).1, ⟨(c.mapper.write addr v).2⟩)

/-! ### The arbiter -/

/-- The byte of memory a device holds at an address, with no bus access: the cartridge is asked first, then
WorkRAM (R40, R43); `none` is an address no device claims (R44). -/
def State.byteAt (s : State) (addr : Addr) : Option Byte :=
  match s.cart.read addr with
  | some b => some b
  | none => workRamRead s.ram addr

/-- The end of every read: the latch takes the byte, then the trace records it (R40). -/
def State.completeRead (s : State) (addr : Addr) (v : Byte) : State :=
  (s.setLatch v).record (.read addr v)

/-- `BusRead(addr)` (R40). -/
def busRead (addr : Addr) (s : State) : Byte × State :=
  match s.byteAt addr with
  | some v => (v, s.completeRead addr v)
  | none => (s.latch, (s.emit (.openRead addr)).completeRead addr s.latch)

/-- `BusWrite(addr, v)` (R41): the latch first, then the cartridge and WorkRAM, both always. -/
def busWrite (addr : Addr) (v : Byte) (s : State) : State :=
  let s := s.setLatch v
  let (c1, cart) := s.cart.write addr v
  let s := s.setCart cart
  let (c2, ram) := workRamWrite s.ram addr v
  let s := s.setRam ram
  let s := if c1 || c2 then s else s.emit (.openWrite addr)
  s.record (.write addr v)

/-- `DummyRead(addr)`: a bus read whose byte is discarded (00_scope.md R7). -/
def dummyRead (addr : Addr) (s : State) : State := (busRead addr s).2

/-- `Fetch()` (30_encoding.md R62). -/
def fetch (s : State) : Byte × State :=
  let (b, s) := busRead s.pc s
  (b, s.setPc (s.pc + 1))

/-! ### The stack -/

/-- `0x0100 | zext_16(SP)` (20_memory.md R49). -/
def stackAddr (sp : Byte) : Addr := Config.stackBase ||| sp.setWidth 16

/-- `Push(v)`: write at SP, then decrement (R50, conflict C1). -/
def push (v : Byte) (s : State) : State :=
  let s := busWrite (stackAddr s.sp) v s
  s.setSp (s.sp - 1)

/-- A pull: increment SP, then read (R51). -/
def pull (s : State) : Byte × State :=
  let s := s.setSp (s.sp + 1)
  busRead (stackAddr s.sp) s

/-- The read at the slot the old SP names that PLA, PLP and RTS make before they pull (R51; decision D5). -/
def dummyStackRead (s : State) : State := dummyRead (stackAddr s.sp) s

/-! ### The one exception -/

/-- `raise Fatal(opcode)` (60_exceptions.md R200, R202): the core enters `FAULT(opcode)` and nothing else changes.
There is no return from it (R203). -/
def raiseFatal (opcode : Byte) (s : State) : Result :=
  .fault (.fatalStop opcode (s.setRun (.fault opcode)))

end Sys2Proof.Machine
end

