-- ==== Sys2Proof/Machine/Flags.lean ====
section
/-! DEFINITION. The bits of P and every flag computation (10_state.md R17, R18). -/

namespace Sys2Proof.Machine

/-- The bit of P each flag is (R17; decision D21). -/
def Flag.bit : Flag → Nat
  | .c => 0
  | .z => 1
  | .i => 2
  | .d => 3
  | .b => 4
  | .u => 5
  | .v => 6
  | .n => 7

/-- The flag's mask column of R17. -/
def Flag.mask (f : Flag) : Byte := BitVec.twoPow 8 f.bit

/-- The flag's value in a status byte. -/
def getFlag (f : Flag) (p : Byte) : Bool := p.getLsbD f.bit

/-- The status byte with one flag written and the other seven kept. -/
def putFlag (f : Flag) (v : Bool) (p : Byte) : Byte :=
  if v then p ||| f.mask else p &&& ~~~f.mask

/-- `SetZN(v)` (00_scope.md R7, 10_state.md R18): Z and N from the final value, every other bit kept. -/
def setZN (v : Byte) (p : Byte) : Byte := putFlag .n (v.getLsbD 7) (putFlag .z (v == 0) p)

/-- BIT's three flag writes (48_logic_compare.md R174). -/
def bitFlags (a m : Byte) (p : Byte) : Byte :=
  putFlag .v (m.getLsbD 6) (putFlag .n (m.getLsbD 7) (putFlag .z ((m &&& a) == 0) p))

/-- The compare law (48_logic_compare.md R178): C and Z from the unsigned comparison, N from the left operand. -/
def compareFlags (l m : Byte) (p : Byte) : Byte :=
  putFlag .n (l.getLsbD 7) (putFlag .z (l == m) (putFlag .c (decide (m ≤ l)) p))

/-- A logical shift right by one (49_shifts.md R185): from P and the old value, the result and the new P. -/
def lsrByte (p v : Byte) : Byte × Byte :=
  let p := putFlag .c (v.getLsbD 0) p
  let r := v >>> 1
  (r, setZN r p)

/-- A rotate right through carry (49_shifts.md R186, R187): the old carry is read before C is written. -/
def rorByte (p v : Byte) : Byte × Byte :=
  let c := getFlag .c p
  let p := putFlag .c (v.getLsbD 0) p
  let r := (if c then 0x80 else 0x00) ||| (v >>> 1)
  (r, setZN r p)

/-- An increment modulo 256 with Z and N (45_incdec.md R144). -/
def incByte (p v : Byte) : Byte × Byte := (v + 1, setZN (v + 1) p)

end Sys2Proof.Machine
end

