-- ==== Sys2Proof/Machine/Operands.lean ====
section
/-! DEFINITION. The addressing-mode micro-sequences (30_encoding.md R70 to R78): the bus accesses a mode performs
after the opcode fetch, and the value or address it hands to the instruction. -/

namespace Sys2Proof.Machine

/-- `zext_16` (00_scope.md R6). -/
def zext16 (b : Byte) : Addr := b.setWidth 16

/-- `sext_16` (00_scope.md R6). -/
def sext16 (b : Byte) : Addr := b.signExtend 16

/-- IMM (R70): the value. -/
def immediate (s : State) : Byte × State := fetch s

/-- ZP (R71): the effective address. -/
def zeroPage (s : State) : Addr × State :=
  let (a, s) := fetch s
  (zext16 a, s)

/-- ABS (R72): the effective address, low byte fetched first (decision D12). -/
def absolute (s : State) : Addr × State :=
  let (lo, s) := fetch s
  let (hi, s) := fetch s
  (joinBytes hi lo, s)

/-- ZPX, store form (R73): a dummy read at the unindexed address; the sum wraps in page zero (20_memory.md R52). -/
def zeroPageX (s : State) : Addr × State :=
  let (a, s) := fetch s
  let s := dummyRead (zext16 a) s
  (zext16 (a + s.x), s)

/-- ABX, store form (R74): a dummy read at the unindexed address, always; the sum wraps at 16 bits. -/
def absoluteX (s : State) : Addr × State :=
  let (base, s) := absolute s
  let s := dummyRead base s
  (base + zext16 s.x, s)

/-- INY, store form (R75): the pointer's two bytes from page zero, low first, then a dummy read at the final
address. -/
def indirectY (s : State) : Addr × State :=
  let (p, s) := fetch s
  let (lo, s) := busRead (zext16 p) s
  let (hi, s) := busRead (zext16 (p + 1)) s
  let ea := joinBytes hi lo + zext16 s.y
  (ea, dummyRead ea s)

/-- REL (R76): the offset byte. -/
def relative (s : State) : Byte × State := fetch s

/-- IMP (R77): one read at PC, which does not advance. -/
def implied (s : State) : State := dummyRead s.pc s

/-- ACC (R78; decision D11): the operand is A and the bus sequence is IMP's. -/
def accumulator (s : State) : Byte × State := (s.a, implied s)

/-- The operand byte of a reading instruction in mode ZP (R71). -/
def zeroPageValue (s : State) : Byte × State :=
  let (ea, s) := zeroPage s
  busRead ea s

/-- The operand byte of a reading instruction in mode ABS (R72). -/
def absoluteValue (s : State) : Byte × State :=
  let (ea, s) := absolute s
  busRead ea s

/-- The read-modify-write of INC, LSR and ROR on the zero page (45_incdec.md R144, 49_shifts.md R185, R186): read,
write the unchanged value back, write the result. `op` gives result and P from P and the value read. -/
def modifyZeroPage (op : Byte → Byte → Byte × Byte) (s : State) : State :=
  let (ea, s) := zeroPage s
  let (v, s) := busRead ea s
  let s := busWrite ea v s
  let (r, p) := op s.p v
  (busWrite ea r s).setP p

end Sys2Proof.Machine
end

