-- ==== Sys2Proof/Machine/Branches.lean ====
section
/-! DEFINITION. BNE, BEQ, BPL, BMI, BCC (47_branches.md). -/

namespace Sys2Proof.Machine

/-- The common branch sequence (R155): a taken branch that changes the high byte of PC makes one extra read at
the new PC (decision D7). -/
def branch (taken : Byte → Bool) (s : State) : State :=
  let (off, s) := relative s
  if taken s.p then
    let old := s.pc
    let target := old + sext16 off
    let s := s.setPc target
    if highByte target ≠ highByte old then dummyRead target s else s
  else s

/-- BNE (R156). -/
def execBne (s : State) : Result := .next (branch (fun p => !getFlag .z p) s)

/-- BEQ (R157). -/
def execBeq (s : State) : Result := .next (branch (fun p => getFlag .z p) s)

/-- BPL (R158). -/
def execBpl (s : State) : Result := .next (branch (fun p => !getFlag .n p) s)

/-- BMI (R159). -/
def execBmi (s : State) : Result := .next (branch (fun p => getFlag .n p) s)

/-- BCC (R160). -/
def execBcc (s : State) : Result := .next (branch (fun p => !getFlag .c p) s)

end Sys2Proof.Machine
end

