-- ==== Sys2Proof/Machine/FlagOps.lean ====
section
/-! DEFINITION. SEI, CLD (46_flags.md). -/

namespace Sys2Proof.Machine

/-- SEI (R150). -/
def execSei (s : State) : Result :=
  let s := implied s
  .next (s.setP (putFlag .i true s.p))

/-- CLD (R151). -/
def execCld (s : State) : Result :=
  let s := implied s
  .next (s.setP (putFlag .d false s.p))

end Sys2Proof.Machine
end

