-- ==== Sys2Proof/Machine/Loads.lean ====
section
/-! DEFINITION. LDA, LDX, LDY (42_loads.md). -/

namespace Sys2Proof.Machine

/-- A takes the byte, and Z and N follow it (42_loads.md, common to all). -/
def loadA (v : Byte) (s : State) : State := (s.setA v).setP (setZN v s.p)

/-- X takes the byte, and Z and N follow it. -/
def loadX (v : Byte) (s : State) : State := (s.setX v).setP (setZN v s.p)

/-- Y takes the byte, and Z and N follow it. -/
def loadY (v : Byte) (s : State) : State := (s.setY v).setP (setZN v s.p)

/-- LDA immediate (R105). -/
def execLdaImm (s : State) : Result :=
  let (v, s) := immediate s
  .next (loadA v s)

/-- LDA zero page (R106). -/
def execLdaZp (s : State) : Result :=
  let (v, s) := zeroPageValue s
  .next (loadA v s)

/-- LDA absolute (R107). -/
def execLdaAbs (s : State) : Result :=
  let (v, s) := absoluteValue s
  .next (loadA v s)

/-- LDX immediate (R108). -/
def execLdxImm (s : State) : Result :=
  let (v, s) := immediate s
  .next (loadX v s)

/-- LDX zero page (R109). -/
def execLdxZp (s : State) : Result :=
  let (v, s) := zeroPageValue s
  .next (loadX v s)

/-- LDX absolute (R110). -/
def execLdxAbs (s : State) : Result :=
  let (v, s) := absoluteValue s
  .next (loadX v s)

/-- LDY immediate (R111). -/
def execLdyImm (s : State) : Result :=
  let (v, s) := immediate s
  .next (loadY v s)

/-- LDY zero page (R112). -/
def execLdyZp (s : State) : Result :=
  let (v, s) := zeroPageValue s
  .next (loadY v s)

/-- LDY absolute (R113). -/
def execLdyAbs (s : State) : Result :=
  let (v, s) := absoluteValue s
  .next (loadY v s)

end Sys2Proof.Machine
end

