-- ==== Sys2Proof/Machine/IncDec.lean ====
section
/-! DEFINITION. INX, INY, DEX, DEY, INC (45_incdec.md). Arithmetic is modulo 256; C and V are not written. -/

namespace Sys2Proof.Machine

/-- INX (R140). -/
def execInx (s : State) : Result :=
  let s := implied s
  .next (loadX (s.x + 1) s)

/-- INY (R141). -/
def execIny (s : State) : Result :=
  let s := implied s
  .next (loadY (s.y + 1) s)

/-- DEX (R142). -/
def execDex (s : State) : Result :=
  let s := implied s
  .next (loadX (s.x - 1) s)

/-- DEY (R143). -/
def execDey (s : State) : Result :=
  let s := implied s
  .next (loadY (s.y - 1) s)

/-- INC zero page (R144). -/
def execIncZp (s : State) : Result := .next (modifyZeroPage incByte s)

end Sys2Proof.Machine
end

