-- ==== Sys2Proof/Machine/Jumps.lean ====
section
/-! DEFINITION. JMP, JSR, RTS (44_jumps.md). -/

namespace Sys2Proof.Machine

/-- JMP absolute (R130). -/
def execJmpAbs (s : State) : Result :=
  let (ea, s) := absolute s
  .next (s.setPc ea)

/-- JSR (R131): the high operand byte is fetched after the two pushes, so a push may change it. -/
def execJsrAbs (s : State) : Result :=
  let (lo, s) := fetch s
  let s := dummyStackRead s
  let s := push (highByte s.pc) s
  let s := push (lowByte s.pc) s
  let (hi, s) := fetch s
  .next (s.setPc (joinBytes hi lo))

/-- RTS (R132): one stack dummy read (decision D6), two pulls, and a last read at the pulled address. -/
def execRts (s : State) : Result :=
  let s := dummyStackRead (implied s)
  let (lo, s) := pull s
  let (hi, s) := pull s
  let s := s.setPc (joinBytes hi lo)
  let s := dummyRead s.pc s
  .next (s.setPc (s.pc + 1))

end Sys2Proof.Machine
end

