-- ==== Sys2Proof/Machine/LogicCompare.lean ====
section
/-! DEFINITION. ORA, EOR, BIT, CMP, CPY (48_logic_compare.md). -/

namespace Sys2Proof.Machine

/-- ORA immediate (R170). -/
def execOraImm (s : State) : Result :=
  let (m, s) := immediate s
  .next (loadA (s.a ||| m) s)

/-- ORA zero page (R171). -/
def execOraZp (s : State) : Result :=
  let (m, s) := zeroPageValue s
  .next (loadA (s.a ||| m) s)

/-- EOR immediate (R172). -/
def execEorImm (s : State) : Result :=
  let (m, s) := immediate s
  .next (loadA (s.a ^^^ m) s)

/-- EOR zero page (R173). -/
def execEorZp (s : State) : Result :=
  let (m, s) := zeroPageValue s
  .next (loadA (s.a ^^^ m) s)

/-- BIT zero page (R174). -/
def execBitZp (s : State) : Result :=
  let (m, s) := zeroPageValue s
  .next (s.setP (bitFlags s.a m s.p))

/-- BIT absolute (R175). -/
def execBitAbs (s : State) : Result :=
  let (m, s) := absoluteValue s
  .next (s.setP (bitFlags s.a m s.p))

/-- CMP immediate (R176): the compare law with A. -/
def execCmpImm (s : State) : Result :=
  let (m, s) := immediate s
  .next (s.setP (compareFlags s.a m s.p))

/-- CPY immediate (R177): the compare law with Y. -/
def execCpyImm (s : State) : Result :=
  let (m, s) := immediate s
  .next (s.setP (compareFlags s.y m s.p))

end Sys2Proof.Machine
end

