-- ==== Sys2Proof/Machine/Shifts.lean ====
section
/-! DEFINITION. LSR, ROR (49_shifts.md). -/

namespace Sys2Proof.Machine

/-- LSR zero page (R185). -/
def execLsrZp (s : State) : Result := .next (modifyZeroPage lsrByte s)

/-- ROR zero page (R186). -/
def execRorZp (s : State) : Result := .next (modifyZeroPage rorByte s)

/-- ROR accumulator (R187). -/
def execRorAcc (s : State) : Result :=
  let (v, s) := accumulator s
  let (r, p) := rorByte s.p v
  .next ((s.setA r).setP p)

end Sys2Proof.Machine
end

