-- ==== Sys2Proof/Machine/Stack.lean ====
section
/-! DEFINITION. PHP, PLA, PLP, PHA (40_stack.md). -/

namespace Sys2Proof.Machine

/-- PHP (R80): all eight bits of P, as stored (decision D4). -/
def execPhp (s : State) : Result :=
  let s := implied s
  .next (push s.p s)

/-- PLA (R81). -/
def execPla (s : State) : Result :=
  let s := dummyStackRead (implied s)
  let (v, s) := pull s
  .next ((s.setA v).setP (setZN v s.p))

/-- PLP (R82): all eight bits are replaced. -/
def execPlp (s : State) : Result :=
  let s := dummyStackRead (implied s)
  let (v, s) := pull s
  .next (s.setP v)

/-- PHA (R83). -/
def execPha (s : State) : Result :=
  let s := implied s
  .next (push s.a s)

end Sys2Proof.Machine
end

