-- ==== Sys2Proof/Machine/Stores.lean ====
section
/-! DEFINITION. STA, STX, STY (41_stores.md). Each is its mode's accesses, then one bus write. -/

namespace Sys2Proof.Machine

/-- STA zero page (R90). -/
def execStaZp (s : State) : Result :=
  let (ea, s) := zeroPage s
  .next (busWrite ea s.a s)

/-- STA absolute (R91). -/
def execStaAbs (s : State) : Result :=
  let (ea, s) := absolute s
  .next (busWrite ea s.a s)

/-- STA zero-page-X (R92). -/
def execStaZpx (s : State) : Result :=
  let (ea, s) := zeroPageX s
  .next (busWrite ea s.a s)

/-- STA absolute-X (R93). -/
def execStaAbx (s : State) : Result :=
  let (ea, s) := absoluteX s
  .next (busWrite ea s.a s)

/-- STA indirect-Y (R94). -/
def execStaIndY (s : State) : Result :=
  let (ea, s) := indirectY s
  .next (busWrite ea s.a s)

/-- STX zero page (R95). -/
def execStxZp (s : State) : Result :=
  let (ea, s) := zeroPage s
  .next (busWrite ea s.x s)

/-- STX absolute (R96). -/
def execStxAbs (s : State) : Result :=
  let (ea, s) := absolute s
  .next (busWrite ea s.x s)

/-- STY zero page (R97). -/
def execStyZp (s : State) : Result :=
  let (ea, s) := zeroPage s
  .next (busWrite ea s.y s)

/-- STY absolute (R98). -/
def execStyAbs (s : State) : Result :=
  let (ea, s) := absolute s
  .next (busWrite ea s.y s)

end Sys2Proof.Machine
end

