-- ==== Sys2Proof/Machine/Transfers.lean ====
section
/-! DEFINITION. TSX, TAX, TAY, TYA, TXS (43_transfers.md). -/

namespace Sys2Proof.Machine

/-- TSX (R120). -/
def execTsx (s : State) : Result :=
  let s := implied s
  .next (loadX s.sp s)

/-- TAX (R121). -/
def execTax (s : State) : Result :=
  let s := implied s
  .next (loadX s.a s)

/-- TAY (R122). -/
def execTay (s : State) : Result :=
  let s := implied s
  .next (loadY s.a s)

/-- TYA (R123). -/
def execTya (s : State) : Result :=
  let s := implied s
  .next (loadA s.y s)

/-- TXS (R124): no flag. -/
def execTxs (s : State) : Result :=
  let s := implied s
  .next (s.setSp s.x)

end Sys2Proof.Machine
end

