-- ==== Sys2Proof/Machine/Dispatch.lean ====
section
/-! DEFINITION. One arm per instruction (30_encoding.md R63), each one call of its meaning. A meaning starts where the
opcode fetch left the machine: PC names the byte after the opcode. -/

namespace Sys2Proof.Machine

def exec (i : Instr) (s : State) : Host.Outcome State Fault Refusal :=
  match i with
  | .oraZp => Sys2Proof.Machine.execOraZp s
  | .php => Sys2Proof.Machine.execPhp s
  | .oraImm => Sys2Proof.Machine.execOraImm s
  | .bpl => Sys2Proof.Machine.execBpl s
  | .jsrAbs => Sys2Proof.Machine.execJsrAbs s
  | .bitZp => Sys2Proof.Machine.execBitZp s
  | .plp => Sys2Proof.Machine.execPlp s
  | .bitAbs => Sys2Proof.Machine.execBitAbs s
  | .bmi => Sys2Proof.Machine.execBmi s
  | .eorZp => Sys2Proof.Machine.execEorZp s
  | .lsrZp => Sys2Proof.Machine.execLsrZp s
  | .pha => Sys2Proof.Machine.execPha s
  | .eorImm => Sys2Proof.Machine.execEorImm s
  | .jmpAbs => Sys2Proof.Machine.execJmpAbs s
  | .rts => Sys2Proof.Machine.execRts s
  | .rorZp => Sys2Proof.Machine.execRorZp s
  | .pla => Sys2Proof.Machine.execPla s
  | .rorAcc => Sys2Proof.Machine.execRorAcc s
  | .sei => Sys2Proof.Machine.execSei s
  | .styZp => Sys2Proof.Machine.execStyZp s
  | .staZp => Sys2Proof.Machine.execStaZp s
  | .stxZp => Sys2Proof.Machine.execStxZp s
  | .dey => Sys2Proof.Machine.execDey s
  | .styAbs => Sys2Proof.Machine.execStyAbs s
  | .staAbs => Sys2Proof.Machine.execStaAbs s
  | .stxAbs => Sys2Proof.Machine.execStxAbs s
  | .bcc => Sys2Proof.Machine.execBcc s
  | .staIndY => Sys2Proof.Machine.execStaIndY s
  | .staZpx => Sys2Proof.Machine.execStaZpx s
  | .tya => Sys2Proof.Machine.execTya s
  | .txs => Sys2Proof.Machine.execTxs s
  | .staAbx => Sys2Proof.Machine.execStaAbx s
  | .ldyImm => Sys2Proof.Machine.execLdyImm s
  | .ldxImm => Sys2Proof.Machine.execLdxImm s
  | .ldyZp => Sys2Proof.Machine.execLdyZp s
  | .ldaZp => Sys2Proof.Machine.execLdaZp s
  | .ldxZp => Sys2Proof.Machine.execLdxZp s
  | .tay => Sys2Proof.Machine.execTay s
  | .ldaImm => Sys2Proof.Machine.execLdaImm s
  | .tax => Sys2Proof.Machine.execTax s
  | .ldyAbs => Sys2Proof.Machine.execLdyAbs s
  | .ldaAbs => Sys2Proof.Machine.execLdaAbs s
  | .ldxAbs => Sys2Proof.Machine.execLdxAbs s
  | .tsx => Sys2Proof.Machine.execTsx s
  | .cpyImm => Sys2Proof.Machine.execCpyImm s
  | .iny => Sys2Proof.Machine.execIny s
  | .cmpImm => Sys2Proof.Machine.execCmpImm s
  | .dex => Sys2Proof.Machine.execDex s
  | .bne => Sys2Proof.Machine.execBne s
  | .cld => Sys2Proof.Machine.execCld s
  | .incZp => Sys2Proof.Machine.execIncZp s
  | .inx => Sys2Proof.Machine.execInx s
  | .beq => Sys2Proof.Machine.execBeq s

end Sys2Proof.Machine
end

