-- ==== Sys2Proof/Machine/Place.lean ====
section
/-! DEFINITION. Storing program bytes from outside the machine, as a loader would: not an operation of the hardware
(log entries 6 and 26). -/

namespace Sys2Proof.Machine

/-- The mapper with one byte of its visible bank replaced. -/
def Mapper.place (m : Mapper) (addr : Addr) (v : Byte) : Mapper :=
  match m with
  | .fixedBank earlier last => .fixedBank earlier (Memory.write last (addr.toNat - Config.cartBase) v)

/-- One byte into the device that holds the address; nowhere in open bus. -/
def placeByte (addr : Addr) (v : Byte) (s : State) : State :=
  if inCart addr then s.setCart ⟨s.cart.mapper.place addr v⟩
  else if inRam addr then s.setRam (Memory.write s.ram (ramIndex addr) v)
  else s

/-- Bytes at consecutive addresses, modulo 65536 (30_encoding.md R60). -/
def placeBytes (addr : Addr) (bs : List Byte) (s : State) : State :=
  match bs with
  | [] => s
  | b :: bs => placeBytes (addr + 1) bs (placeByte addr b s)

/-- A device holds a byte at the address. -/
def storable (addr : Addr) : Bool := inCart addr || inRam addr

/-- The address itself if three bytes can be stored there, else the cartridge's first address. -/
def fetchHome (pc : Addr) : Addr :=
  if storable pc && storable (pc + 1) && storable (pc + 2) then pc else 0xC000

end Sys2Proof.Machine
end

