-- ==== Sys2Proof/Machine/Reset.lean ====
section
/-! DEFINITION. Launch, power-on and the reset sequence (70_reset_and_hazards.md R220 to R225). -/

namespace Sys2Proof.Machine

/-- The mapper holding a list of banks; none without a bank (20_memory.md R37, decision D17). -/
def Mapper.ofBanks (banks : List Bank) : Option Mapper :=
  match banks.getLast? with
  | none => none
  | some last => some (.fixedBank banks.dropLast last)

/-- The state when the block is constructed (R220), given its mapper. -/
def State.powerOn (l : Config.Launch) (m : Mapper) : State where
  a := 0x00
  x := 0x00
  y := 0x00
  sp := Config.powerOnSp
  pc := 0x0000
  p := l.powerOnP
  latch := l.latchInit
  ram := Memory.ofBytes 0 l.ramInit
  cart := ⟨m⟩
  run := .notRunning
  trace := []
  diagnostics := []

/-- The block the host constructs from its parameters (R225); refused for parameters with no meaning. -/
def launch (l : Config.Launch) : Result :=
  if l.valid then
    match Mapper.ofBanks (l.prgBanks.map (Memory.ofBytes 0)) with
    | none => .refused .launchRefused
    | some m => .next (State.powerOn l m)
  else .refused .launchRefused

/-- The reset sequence (R221), on the current state. Run again on a later state it is the warm reset of R224,
which the spec defines but does not provide (log entry 11). -/
def resetSequence (s : State) : State :=
  let s := s.setSp (s.sp - 3)
  let s := s.setP (putFlag .i true s.p)
  let (lo, s) := busRead Config.resetVectorLo s
  let (hi, s) := busRead Config.resetVectorHi s
  (s.setPc (joinBytes hi lo)).setRun .running

/-- The state after power-on and reset, as R222 lists it, for any launch and its last bank. -/
def State.afterReset (l : Config.Launch) (earlier : List Bank) (last : Bank) : State where
  a := 0x00
  x := 0x00
  y := 0x00
  sp := 0xFC
  pc := joinBytes (Memory.read last 0x3FFD) (Memory.read last 0x3FFC)
  p := l.powerOnP ||| 0x04
  latch := Memory.read last 0x3FFD
  ram := Memory.ofBytes 0 l.ramInit
  cart := ⟨.fixedBank earlier last⟩
  run := .running
  trace := [.read 0xFFFC (Memory.read last 0x3FFC), .read 0xFFFD (Memory.read last 0x3FFD)]
  diagnostics := []

end Sys2Proof.Machine
end

