-- ==== Sys2Proof/Machine/Step.lean ====
section
/-! DEFINITION. One step (30_encoding.md R60, R63; 10_state.md R24): the opcode fetch, the decode, and the
instruction's own micro-sequence, as one atomic transition (70_reset_and_hazards.md R230). -/

namespace Sys2Proof.Machine

/-- A step. A running core fetches an opcode and runs it, or stops for good on one outside the table. A stopped
core stays stopped and makes no access (60_exceptions.md R203). Before the reset sequence no instruction runs:
the step is the reset sequence (70_reset_and_hazards.md R220; log entry 10). -/
def step (s : State) : Host.Outcome State Fault Refusal :=
  match s.run with
  | .running =>
    let (opcode, s) := fetch s
    match decodeOpcode opcode with
    | some i => exec i s
    | none => raiseFatal opcode s
  | .fault opcode => .fault (.fatalStop opcode s)
  | .notRunning => .next (resetSequence s)

/-- `s` with an opcode-table word stored where `step` fetches next. If one of its three bytes would fall in open
bus, where nothing can be stored, PC moves to the cartridge's first address (log entry 26). -/
def State.withFetchWord (s : State) (nbits w : Nat) : State :=
  let pc := fetchHome s.pc
  placeBytes pc (tableBytes nbits w) ((s.setPc pc).setRun .running)

end Sys2Proof.Machine
end

