-- ==== Sys2Proof/Safety.lean ====
section
/-! DEFINITION. The words the claims are stated in: what a bus access returns and leaves observable, what an
instruction may write, and what every reachable state satisfies. Nothing here is called by the machine. -/

namespace Sys2Proof.Machine

/-! ### Bus accesses as events -/

/-- The byte a read of `addr` returns when the latch holds `latch`: the claiming device's byte, or the latch
(20_memory.md R40). -/
def State.readWith (s : State) (latch : Byte) (addr : Addr) : Byte := (s.byteAt addr).getD latch

/-- The byte a transaction moves, which the latch then holds (20_memory.md R42). -/
def BusEvent.value : BusEvent → Byte
  | .read _ v => v
  | .write _ v => v

/-- The open-bus diagnostic that comes with a transaction, by the address map (20_memory.md R32, R45). -/
def BusEvent.openBus : BusEvent → Option Diagnostic
  | .read addr _ => if 0x2000 ≤ addr.toNat ∧ addr.toNat ≤ 0xBFFF then some (.openRead addr) else none
  | .write addr _ => if 0x2000 ≤ addr.toNat then some (.openWrite addr) else none

/-- The diagnostics that come with transactions, in order. -/
def diagnosticsOf (es : List BusEvent) : List Diagnostic := es.filterMap BusEvent.openBus

/-- What transactions leave besides stored bytes: the latch holds the last byte moved, the trace has grown by
them, and the diagnostics by theirs. -/
def State.observe (s : State) (es : List BusEvent) : State :=
  { s with
    latch := (es.getLast?.map BusEvent.value).getD s.latch
    trace := s.trace ++ es
    diagnostics := s.diagnostics ++ diagnosticsOf es }

/-- WorkRAM after a store at a bus address: the byte at `addr mod 2048` if `addr <= 0x1FFF`, else nothing
(20_memory.md R34). -/
def storeRam (ram : Memory) (addr : Addr) (v : Byte) : Memory :=
  if addr.toNat ≤ 0x1FFF then Memory.write ram (addr.toNat % 2048) v else ram

/-- Two bus addresses name the same byte of WorkRAM (20_memory.md R35). -/
def sameRamByte (p q : Addr) : Prop :=
  p.toNat ≤ 0x1FFF ∧ q.toNat ≤ 0x1FFF ∧ p.toNat % 2048 = q.toNat % 2048

/-! ### The operand bytes of the instruction about to run (PC names the byte after the opcode) -/

/-- The first byte after the opcode, as a fetch returns it. -/
def State.byte1 (s : State) : Byte := s.readWith s.latch s.pc

/-- The second byte after the opcode, as a fetch right after the first returns it. -/
def State.byte2 (s : State) : Byte := s.readWith s.byte1 (s.pc + 1)

/-- The 16-bit operand of formats ABS and ABX, low byte first (20_memory.md R46). -/
def State.addr16 (s : State) : Addr := joinBytes s.byte2 s.byte1

/-- The effective address of format ZP (30_encoding.md R71). -/
def State.zpAddr (s : State) : Addr := zext16 s.byte1

/-- The byte a read of the ZP effective address returns (R71). -/
def State.zpValue (s : State) : Byte := s.readWith s.byte1 s.zpAddr

/-- The byte a read of the ABS effective address returns (R72). -/
def State.absValue (s : State) : Byte := s.readWith s.byte2 s.addr16

/-- `s` after transactions of which `n` were fetches: what they leave, and PC past the fetched bytes. -/
def State.ran (s : State) (n : Nat) (es : List BusEvent) : State :=
  { s.observe es with pc := s.pc + BitVec.ofNat 16 n }

/-- The opcode byte stands for the instruction, in the format (30_encoding.md R63, R64). -/
def encodedAs (i : Instr) (opcode : Byte) (f : Format) : Prop := decodeOpcode opcode = some i ∧ i.format = f

/-- The bytes `n` fetches in a row return. -/
def fetchMany : Nat → State → List Byte
  | 0, _ => []
  | n + 1, s => (fetch s).1 :: fetchMany n (fetch s).2

/-! ### What instructions may write -/

/-- The bus addresses an instruction stores to, by the operation its meaning forms them with (41_stores.md,
40_stack.md, 44_jumps.md R131, 45_incdec.md R144, 49_shifts.md). -/
def storeTargets (i : Instr) (s : State) : List Addr :=
  match i with
  | .php | .pha => [stackAddr s.sp]
  | .jsrAbs => [stackAddr s.sp, stackAddr (s.sp - 1)]
  | .staZp | .stxZp | .styZp | .incZp | .lsrZp | .rorZp => [(zeroPage s).1]
  | .staAbs | .stxAbs | .styAbs => [(absolute s).1]
  | .staZpx => [(zeroPageX s).1]
  | .staAbx => [(absoluteX s).1]
  | .staIndY => [(indirectY s).1]
  | .pla | .plp | .ldaImm | .ldaZp | .ldaAbs | .ldxImm | .ldxZp | .ldxAbs | .ldyImm | .ldyZp | .ldyAbs
  | .tsx | .tax | .tay | .tya | .txs | .jmpAbs | .rts | .inx | .iny | .dex | .dey | .sei | .cld
  | .bne | .beq | .bpl | .bmi | .bcc | .oraImm | .oraZp | .eorImm | .eorZp | .bitZp | .bitAbs
  | .cmpImm | .cpyImm | .rorAcc => []

/-- The instructions that write A (10_state.md R11). -/
def writesA : List Instr :=
  [.ldaImm, .ldaZp, .ldaAbs, .pla, .tya, .oraImm, .oraZp, .eorImm, .eorZp, .rorAcc]

/-- The instructions that write X (10_state.md R12). -/
def writesX : List Instr := [.ldxImm, .ldxZp, .ldxAbs, .tax, .tsx, .inx, .dex]

/-- The instructions that write Y (10_state.md R13). -/
def writesY : List Instr := [.ldyImm, .ldyZp, .ldyAbs, .tay, .iny, .dey]

/-- The instructions that write SP (10_state.md R14). -/
def writesSp : List Instr := [.txs, .pha, .php, .jsrAbs, .pla, .plp, .rts]

/-- The instructions that set Z and N through `SetZN` (10_state.md R18). -/
def setsZN : List Instr :=
  [.ldaImm, .ldaZp, .ldaAbs, .ldxImm, .ldxZp, .ldxAbs, .ldyImm, .ldyZp, .ldyAbs, .pla, .tsx, .tax, .tay,
    .tya, .inx, .iny, .dex, .dey, .incZp, .oraImm, .oraZp, .eorImm, .eorZp, .lsrZp, .rorZp, .rorAcc]

/-- The instructions that write each flag (10_state.md R18). -/
def writesFlag : Flag → List Instr
  | .c => [.cmpImm, .cpyImm, .lsrZp, .rorZp, .rorAcc, .plp]
  | .z => setsZN ++ [.bitZp, .bitAbs, .cmpImm, .cpyImm, .plp]
  | .i => [.sei, .plp]
  | .d => [.cld, .plp]
  | .b => [.plp]
  | .u => [.plp]
  | .v => [.bitZp, .bitAbs, .plp]
  | .n => setsZN ++ [.bitZp, .bitAbs, .cmpImm, .cpyImm, .plp]

/-- The control transfers (44_jumps.md, 47_branches.md). -/
def transfersControl : List Instr := [.jmpAbs, .jsrAbs, .rts, .bne, .beq, .bpl, .bmi, .bcc]

/-- The branch condition of R156 to R160; `false` for what is no branch. -/
def branchTaken (i : Instr) (p : Byte) : Bool :=
  match i with
  | .bne => !p.getLsbD 1
  | .beq => p.getLsbD 1
  | .bpl => !p.getLsbD 7
  | .bmi => p.getLsbD 7
  | .bcc => !p.getLsbD 0
  | _ => false

/-- The target of a branch: the next instruction's address plus the sign-extended offset (47_branches.md R155). -/
def State.branchTarget (s : State) : Addr := s.pc + 1 + s.byte1.signExtend 16

/-- A taken branch that leaves the page of the next instruction (R155). -/
def branchCrosses (i : Instr) (s : State) : Bool :=
  branchTaken i s.p && s.branchTarget.toNat / 256 != (s.pc + 1).toNat / 256

/-- The bytes of operand after the opcode (30_encoding.md R61). -/
def operandLength : Format → Nat
  | .imp | .acc => 0
  | .imm | .zp | .zpx | .indY | .rel => 1
  | .abs | .abx => 2

/-- The bus accesses of an instruction, the opcode fetch included (30_encoding.md R64, column accesses). -/
def accesses (i : Instr) (s : State) : Nat :=
  match i with
  | .oraImm | .eorImm | .ldaImm | .ldxImm | .ldyImm | .cmpImm | .cpyImm => 2
  | .tsx | .tax | .tay | .tya | .txs | .inx | .iny | .dex | .dey | .sei | .cld | .rorAcc => 2
  | .bne | .beq | .bpl | .bmi | .bcc => if branchCrosses i s then 3 else 2
  | .ldaZp | .ldxZp | .ldyZp | .staZp | .stxZp | .styZp | .oraZp | .eorZp | .bitZp => 3
  | .php | .pha | .jmpAbs => 3
  | .ldaAbs | .ldxAbs | .ldyAbs | .staAbs | .stxAbs | .styAbs | .bitAbs | .staZpx | .pla | .plp => 4
  | .staAbx | .incZp | .lsrZp | .rorZp => 5
  | .staIndY | .jsrAbs | .rts => 6

/-! ### Runs of operations -/

/-- Pushes, first to last (20_memory.md R50). -/
def pushAll : List Byte → State → State
  | [], s => s
  | v :: vs, s => pushAll vs (push v s)

/-- `n` pulls: the bytes in the order pulled, and the state after (20_memory.md R51). -/
def pullAll : Nat → State → List Byte × State
  | 0, s => ([], s)
  | n + 1, s =>
    let (v, s) := pull s
    let (vs, s) := pullAll n s
    (v :: vs, s)

/-- `n` runs of one instruction, stopping at the first stop. -/
def execTimes : Nat → Instr → State → Result
  | 0, _, s => .next s
  | n + 1, i, s =>
    match exec i s with
    | .next s => execTimes n i s
    | .fault f => .fault f
    | .refused r => .refused r

/-- One bus access asked for: the request of the CPU's port (20_memory.md R58). -/
inductive Access where
  | read (addr : Addr)
  | write (addr : Addr) (v : Byte)
  deriving DecidableEq, Repr

/-- The state after one bus access. -/
def Access.perform : Access → State → State
  | .read addr, s => (busRead addr s).2
  | .write addr v, s => busWrite addr v s

/-- The state after bus accesses, first to last. -/
def performAll : List Access → State → State
  | [], s => s
  | a :: as, s => performAll as (a.perform s)

/-- The access stores to the byte of WorkRAM that a bus address names. -/
def Access.storesTo : Access → Addr → Prop
  | .read _, _ => False
  | .write addr _, q => sameRamByte addr q

/-! ### What every reachable state satisfies -/

/-- The bus run again from its events: WorkRAM and the latch after them, or nothing if a read moved a byte that
the devices and the latch did not hold at that moment (20_memory.md R40, R41, R53). -/
def replay (cart : Cartridge) : Memory × Byte → List BusEvent → Option (Memory × Byte)
  | m, [] => some m
  | (ram, latch), .read addr v :: es =>
    if v = ((cart.read addr).or (workRamRead ram addr)).getD latch then replay cart (ram, v) es else none
  | (ram, _), .write addr v :: es => replay cart (storeRam ram addr v, v) es

/-- The whole trace of `s`, replayed on the devices and the latch of `s₀` (a block just powered on), gives the WorkRAM and
the latch of `s`; the diagnostics are those of the trace, and the cartridge is that of `s₀` (20_memory.md R53, R57). -/
def State.ReplaysFrom (s s₀ : State) : Prop :=
  s.cart = s₀.cart ∧ s.diagnostics = diagnosticsOf s.trace ∧
    replay s₀.cart (s₀.ram, s₀.latch) s.trace = some (s.ram, s.latch)

/-- Byte storage of a given size in canonical form. -/
def Memory.ok (size : Nat) (m : Memory) : Prop := m.wf = true ∧ m.within size = true

/-- Every bank is `BANK_SIZE` bytes in canonical form. -/
def Mapper.ok : Mapper → Prop
  | .fixedBank earlier last => (∀ b ∈ earlier, Memory.ok Config.bankSize b) ∧ Memory.ok Config.bankSize last

/-- What holds from the end of reset until a fatal stop. -/
structure State.Inv (s : State) : Prop where
  /-- WorkRAM is 2048 bytes in canonical form (10_state.md R22) -/
  ram : Memory.ok Config.ramSize s.ram
  /-- the banks are 16384 bytes each in canonical form (R23) -/
  cart : s.cart.mapper.ok
  /-- the core is RUNNING (R24) -/
  run : s.run = .running
  /-- the latch holds the byte of the last transaction (20_memory.md R42) -/
  latch : s.trace.getLast?.map BusEvent.value = some s.latch
  /-- the diagnostics are those of the trace, in order (R45) -/
  diagnostics : s.diagnostics = diagnosticsOf s.trace
  /-- the trace starts with the two reset-vector reads (R57) -/
  start : s.trace.take 2 =
    [.read 0xFFFC ((s.cart.read 0xFFFC).getD 0), .read 0xFFFD ((s.cart.read 0xFFFD).getD 0)]

end Sys2Proof.Machine
end

