-- ==== Sys2Proof/Certificates/Slice0/Obligations.lean ====
section
/-! DEFINITION. The statements for the provers. A statement about an instruction is about the state right after the
opcode fetch: PC names the byte after the opcode. The vocabulary is Safety.lean's. What the rules of spec/ take from the
spec's own decisions holds throughout: the opcode bytes (decision D1), the low byte first in an absolute operand and a
pointer (D12), the bits of P (D21). Other decisions are named where a statement rests on them. -/

open Sys2Proof Sys2Proof.Machine

/-! ### Encoding -/

/-- Encoding a well-formed instruction and decoding the bytes gives it back, whatever follows, for every value of
every operand field (30_encoding.md R60, R61, R63). -/
def Obligations.EncodeThenDecodeReturnsTheInstruction : Prop :=
  ∀ (c : Code) (rest : List Byte), c.wf = true → decode (encode c ++ rest) = .ok (c, rest)

/-- Bytes that decode are the encoding of what they decode to, which is well formed: no two byte sequences mean
the same instruction, and no bit is ignored (R60, R61, R66). -/
def Obligations.DecodedBytesAreTheEncoding : Prop :=
  ∀ (bs rest : List Byte) (c : Code), decode bs = .ok (c, rest) → c.wf = true ∧ encode c ++ rest = bs

/-- The opcode map, row by row as 30_encoding.md R64 prints it, and no other byte decodes. The byte values are the
spec's decision D1 (log entry 1). -/
def Obligations.OpcodeMapIsTheTable : Prop :=
  encodedAs .oraZp 0x05 .zp ∧ encodedAs .php 0x08 .imp ∧ encodedAs .oraImm 0x09 .imm ∧ encodedAs .bpl 0x10 .rel ∧
  encodedAs .jsrAbs 0x20 .abs ∧ encodedAs .bitZp 0x24 .zp ∧ encodedAs .plp 0x28 .imp ∧
  encodedAs .bitAbs 0x2C .abs ∧ encodedAs .bmi 0x30 .rel ∧ encodedAs .eorZp 0x45 .zp ∧ encodedAs .lsrZp 0x46 .zp ∧
  encodedAs .pha 0x48 .imp ∧ encodedAs .eorImm 0x49 .imm ∧ encodedAs .jmpAbs 0x4C .abs ∧ encodedAs .rts 0x60 .imp ∧
  encodedAs .rorZp 0x66 .zp ∧ encodedAs .pla 0x68 .imp ∧ encodedAs .rorAcc 0x6A .acc ∧ encodedAs .sei 0x78 .imp ∧
  encodedAs .styZp 0x84 .zp ∧ encodedAs .staZp 0x85 .zp ∧ encodedAs .stxZp 0x86 .zp ∧ encodedAs .dey 0x88 .imp ∧
  encodedAs .styAbs 0x8C .abs ∧ encodedAs .staAbs 0x8D .abs ∧ encodedAs .stxAbs 0x8E .abs ∧
  encodedAs .bcc 0x90 .rel ∧ encodedAs .staIndY 0x91 .indY ∧ encodedAs .staZpx 0x95 .zpx ∧
  encodedAs .tya 0x98 .imp ∧ encodedAs .txs 0x9A .imp ∧ encodedAs .staAbx 0x9D .abx ∧ encodedAs .ldyImm 0xA0 .imm ∧
  encodedAs .ldxImm 0xA2 .imm ∧ encodedAs .ldyZp 0xA4 .zp ∧ encodedAs .ldaZp 0xA5 .zp ∧ encodedAs .ldxZp 0xA6 .zp ∧
  encodedAs .tay 0xA8 .imp ∧ encodedAs .ldaImm 0xA9 .imm ∧ encodedAs .tax 0xAA .imp ∧ encodedAs .ldyAbs 0xAC .abs ∧
  encodedAs .ldaAbs 0xAD .abs ∧ encodedAs .ldxAbs 0xAE .abs ∧ encodedAs .tsx 0xBA .imp ∧ encodedAs .cpyImm 0xC0 .imm ∧
  encodedAs .iny 0xC8 .imp ∧ encodedAs .cmpImm 0xC9 .imm ∧ encodedAs .dex 0xCA .imp ∧ encodedAs .bne 0xD0 .rel ∧
  encodedAs .cld 0xD8 .imp ∧ encodedAs .incZp 0xE6 .zp ∧ encodedAs .inx 0xE8 .imp ∧ encodedAs .beq 0xF0 .rel ∧
  ∀ b : Byte, (decodeOpcode b).isSome = true ↔
    b ∈ ([0x05, 0x08, 0x09, 0x10, 0x20, 0x24, 0x28, 0x2C, 0x30, 0x45, 0x46, 0x48, 0x49, 0x4C, 0x60, 0x66, 0x68, 0x6A,
      0x78, 0x84, 0x85, 0x86, 0x88, 0x8C, 0x8D, 0x8E, 0x90, 0x91, 0x95, 0x98, 0x9A, 0x9D, 0xA0, 0xA2, 0xA4, 0xA5, 0xA6,
      0xA8, 0xA9, 0xAA, 0xAC, 0xAD, 0xAE, 0xBA, 0xC0, 0xC8, 0xC9, 0xCA, 0xD0, 0xD8, 0xE6, 0xE8, 0xF0] : List Byte)

/-- Example encodings of R67, one per format, read from bytes with what follows left over. -/
def Obligations.ExampleBytesDecodeAsWritten : Prop :=
  decode [0xE8, 0xEA] = .ok (⟨.inx, .none⟩, [0xEA]) ∧
  decode [0x6A] = .ok (⟨.rorAcc, .none⟩, []) ∧
  decode [0xA9, 0x42] = .ok (⟨.ldaImm, .imm8 0x42⟩, []) ∧
  decode [0x85, 0x10] = .ok (⟨.staZp, .zp8 0x10⟩, []) ∧
  decode [0x95, 0x10] = .ok (⟨.staZpx, .zp8 0x10⟩, []) ∧
  decode [0x91, 0x20] = .ok (⟨.staIndY, .ptr8 0x20⟩, []) ∧
  decode [0xD0, 0xFA] = .ok (⟨.bne, .off8 0xFA⟩, []) ∧
  decode [0x4C, 0x04, 0xC0] = .ok (⟨.jmpAbs, .addr16 0xC004⟩, []) ∧
  decode [0x9D, 0x00, 0x03] = .ok (⟨.staAbx, .addr16 0x0300⟩, []) ∧
  decode [0xEA] = .error (.unimplementedOpcode 0xEA) ∧
  decode [0x4C, 0x04] = .error (.truncated .jmpAbs)

/-- The value helpers of R6: `hi:lo` is `hi * 256 + lo`, `zext_16(b)` is `0x00:b`, `sext_16(b)` is `b` or
`0xFF00 + b` by bit 7. -/
def Obligations.ByteHelpersFollowTheNotation : Prop :=
  (∀ hi lo : Byte, (joinBytes hi lo).toNat = hi.toNat * 256 + lo.toNat) ∧
  (∀ v : Addr, joinBytes (highByte v) (lowByte v) = v) ∧
  ∀ b : Byte, zext16 b = joinBytes 0x00 b ∧
    (b.getLsbD 7 = false → sext16 b = zext16 b) ∧ (b.getLsbD 7 = true → sext16 b = 0xFF00 + zext16 b)

/-! ### The bus -/

/-- R40: the cartridge is asked first, then WorkRAM, else the latch is returned with `OB-R`; the latch takes the
byte and the trace records the read. -/
def Obligations.BusReadFollowsTheArbiter : Prop :=
  ∀ (s : State) (q : Addr),
    (∀ v, s.cart.read q = some v →
      busRead q s = (v, { s with latch := v, trace := s.trace ++ [.read q v] })) ∧
    (∀ v, s.cart.read q = none → workRamRead s.ram q = some v →
      busRead q s = (v, { s with latch := v, trace := s.trace ++ [.read q v] })) ∧
    (s.cart.read q = none → workRamRead s.ram q = none →
      busRead q s = (s.latch, { s with
        trace := s.trace ++ [.read q s.latch], diagnostics := s.diagnostics ++ [.openRead q] }))

/-- R41: the latch takes the byte, both devices are offered the write, `OB-W` is emitted if neither claims it, and
the trace records the write. -/
def Obligations.BusWriteIsOfferedToBothDevices : Prop :=
  ∀ (s : State) (q : Addr) (v : Byte),
    busWrite q v s = { s with
      latch := v
      cart := (s.cart.write q v).2
      ram := (workRamWrite s.ram q v).2
      trace := s.trace ++ [.write q v]
      diagnostics := if (s.cart.write q v).1 || (workRamWrite s.ram q v).1 then s.diagnostics
        else s.diagnostics ++ [.openWrite q] }

/-- R42: after a read the latch is the byte returned, after a write the byte written; at an address no device
claims a read returns the latch, and after a write there the byte written; and after any instruction the latch
holds the byte of its last bus access. -/
def Obligations.LatchHoldsTheLastByteMoved : Prop :=
  (∀ (s : State) (q : Addr), (busRead q s).2.latch = (busRead q s).1) ∧
  (∀ (s : State) (q : Addr) (v : Byte), (busWrite q v s).latch = v) ∧
  (∀ (s : State) (q : Addr), 0x2000 ≤ q.toNat → q.toNat ≤ 0xBFFF →
    (busRead q s).1 = s.latch ∧ (busRead q s).2.latch = s.latch ∧
    ∀ (r : Addr) (v : Byte), (busRead q (busWrite r v s)).1 = v) ∧
  ∀ (i : Instr) (s : State), ∃ t e, exec i s = .next t ∧
    t.trace.getLast? = some e ∧ s.trace.length < t.trace.length ∧ t.latch = e.value

/-- R33, R34: WorkRAM claims exactly `0x0000..=0x1FFF` at `addr mod 2048`; so (R35) a byte written is read back at
every mirror of its address, and no other byte of memory changes. In canonical storage, which every reachable state
has (StepKeepsTheInvariant). -/
def Obligations.WorkRamRoundTripsAtEveryMirror : Prop :=
  (∀ (ram : Memory) (q : Addr), workRamRead ram q =
    if q.toNat ≤ 0x1FFF then some (Memory.read ram (q.toNat % 2048)) else none) ∧
  (∀ (ram : Memory) (q : Addr) (v : Byte), workRamWrite ram q v =
    if q.toNat ≤ 0x1FFF then (true, Memory.write ram (q.toNat % 2048) v) else (false, ram)) ∧
  ∀ (s : State) (p q : Addr) (v : Byte), s.ram.wf = true →
    (sameRamByte p q → (busWrite p v s).byteAt q = some v) ∧
    (¬ sameRamByte p q → (busWrite p v s).byteAt q = s.byteAt q)

/-- R38: FixedBank rejects every write and keeps every bank. R37 with decision D17 (log entry 14): it serves byte
`addr - 0xC000` of the last bank for `addr >= 0xC000` and nothing else, and a launch with no bank is refused. -/
def Obligations.FixedBankServesTheLastBankReadOnly : Prop :=
  (∀ (earlier : List Bank) (last : Bank) (q : Addr), (Mapper.fixedBank earlier last).read q =
    if 0xC000 ≤ q.toNat then some (Memory.read last (q.toNat - 0xC000)) else none) ∧
  (∀ (m : Mapper) (q : Addr) (v : Byte), m.write q v = (false, m)) ∧
  ∀ l : Config.Launch, l.prgBanks = [] → launch l = .refused .launchRefused

/-- R49, R50: a push writes at `0x0100 | SP`, an address in page one, and then decrements SP modulo 256. -/
def Obligations.PushWritesThenDecrements : Prop :=
  (∀ sp : Byte, (stackAddr sp).toNat = 0x100 + sp.toNat) ∧
  ∀ (s : State) (v : Byte), push v s =
    { s.observe [.write (stackAddr s.sp) v] with
      ram := Memory.write s.ram (0x100 + s.sp.toNat) v, sp := s.sp - 1 }

/-- R51: a pull increments SP modulo 256 and then reads; what up to 256 pushes stored, as many pulls return in
LIFO order, and SP comes back. In canonical storage (StepKeepsTheInvariant). -/
def Obligations.StackIsLastInFirstOut : Prop :=
  (∀ s : State, pull s =
    (Memory.read s.ram (0x100 + (s.sp + 1).toNat),
      { s.observe [.read (stackAddr (s.sp + 1)) (Memory.read s.ram (0x100 + (s.sp + 1).toNat))] with
        sp := s.sp + 1 })) ∧
  ∀ (s : State) (vs : List Byte), s.ram.wf = true → vs.length ≤ 256 →
    (pushAll vs s).sp = s.sp - BitVec.ofNat 8 vs.length ∧
    (pullAll vs.length (pushAll vs s)).1 = vs.reverse ∧ (pullAll vs.length (pushAll vs s)).2.sp = s.sp

/-! ### Flag computations -/

/-- `SetZN` (R18's law): Zero holds iff the value is 0, Negative iff its bit 7 is set, and no other bit of P
changes; a flag written alone changes no other. -/
def Obligations.SetZNWritesZeroAndNegativeOnly : Prop :=
  (∀ (f : Flag) (v p : Byte), getFlag f (setZN v p) =
    if f = .z then v == 0 else if f = .n then v.getLsbD 7 else getFlag f p) ∧
  ∀ (f g : Flag) (b : Bool) (p : Byte), getFlag g (putFlag f b p) = if g = f then b else getFlag g p

/-! ### Stack instructions -/

/-- R83, R80. PHA and PHP: a read at PC, then A or P pushed; no flag written. That P is pushed as stored, bits 4 and
5 too, is decision D4 (log entry 23). -/
def Obligations.PhpAndPhaPush : Prop :=
  encodedAs .php 0x08 .imp ∧ encodedAs .pha 0x48 .imp ∧
  ∀ s : State,
    exec .php s = .next { s.ran 0 [.read s.pc s.byte1, .write (stackAddr s.sp) s.p] with
      sp := s.sp - 1, ram := Memory.write s.ram (0x100 + s.sp.toNat) s.p } ∧
    exec .pha s = .next { s.ran 0 [.read s.pc s.byte1, .write (stackAddr s.sp) s.a] with
      sp := s.sp - 1, ram := Memory.write s.ram (0x100 + s.sp.toNat) s.a }

/-- R81, R82. PLA and PLP: a read at PC, a dummy read at the old SP's slot (decision D5, log entry 16), SP
incremented, the byte read: into A with Z and N, or into all eight bits of P (decision D4, log entry 23). -/
def Obligations.PlaAndPlpPull : Prop :=
  encodedAs .pla 0x68 .imp ∧ encodedAs .plp 0x28 .imp ∧
  ∀ (s : State) (old v : Byte), old = Memory.read s.ram (0x100 + s.sp.toNat) →
    v = Memory.read s.ram (0x100 + (s.sp + 1).toNat) →
    exec .pla s = .next
      { s.ran 0 [.read s.pc s.byte1, .read (stackAddr s.sp) old, .read (stackAddr (s.sp + 1)) v] with
        sp := s.sp + 1, a := v, p := setZN v s.p } ∧
    exec .plp s = .next
      { s.ran 0 [.read s.pc s.byte1, .read (stackAddr s.sp) old, .read (stackAddr (s.sp + 1)) v] with
        sp := s.sp + 1, p := v }

/-! ### Stores -/

/-- R90, R91, R95 to R98. STA, STX, STY in modes ZP and ABS: the operand bytes, then one write of the register at
the effective address; nothing else changes. -/
def Obligations.PlainStoresWriteTheRegister : Prop :=
  encodedAs .staZp 0x85 .zp ∧ encodedAs .staAbs 0x8D .abs ∧ encodedAs .stxZp 0x86 .zp ∧
  encodedAs .stxAbs 0x8E .abs ∧ encodedAs .styZp 0x84 .zp ∧ encodedAs .styAbs 0x8C .abs ∧
  ∀ s : State,
    (∀ ir ∈ [(Instr.staZp, s.a), (Instr.stxZp, s.x), (Instr.styZp, s.y)],
      exec ir.1 s = .next { s.ran 1 [.read s.pc s.byte1, .write s.zpAddr ir.2] with
        ram := storeRam s.ram s.zpAddr ir.2 }) ∧
    ∀ ir ∈ [(Instr.staAbs, s.a), (Instr.stxAbs, s.x), (Instr.styAbs, s.y)],
      exec ir.1 s = .next
        { s.ran 2 [.read s.pc s.byte1, .read (s.pc + 1) s.byte2, .write s.addr16 ir.2] with
          ram := storeRam s.ram s.addr16 ir.2 }

/-- R92, R93. STA zero-page-X and absolute-X: a dummy read at the unindexed address, always (decision D8, log
entry 19), then the write, wrapping in page zero or at 16 bits (decision D9, log entry 20). -/
def Obligations.StaIndexedByX : Prop :=
  encodedAs .staZpx 0x95 .zpx ∧ encodedAs .staAbx 0x9D .abx ∧
  ∀ s : State,
    exec .staZpx s = .next
      { s.ran 1 [.read s.pc s.byte1, .read s.zpAddr s.zpValue, .write (zext16 (s.byte1 + s.x)) s.a] with
        ram := storeRam s.ram (zext16 (s.byte1 + s.x)) s.a } ∧
    exec .staAbx s = .next
      { s.ran 2 [.read s.pc s.byte1, .read (s.pc + 1) s.byte2, .read s.addr16 s.absValue,
          .write (s.addr16 + zext16 s.x) s.a] with
        ram := storeRam s.ram (s.addr16 + zext16 s.x) s.a }

/-- R94. STA indirect-Y: the pointer's bytes from page zero (the second wrapping there), low first, a dummy read
at the final address, then the write. -/
def Obligations.StaIndirectY : Prop :=
  encodedAs .staIndY 0x91 .indY ∧
  ∀ (s : State) (lo hi : Byte) (ea : Addr), lo = s.zpValue → hi = s.readWith lo (zext16 (s.byte1 + 1)) →
    ea = joinBytes hi lo + zext16 s.y →
    exec .staIndY s = .next
      { s.ran 1 [.read s.pc s.byte1, .read s.zpAddr lo, .read (zext16 (s.byte1 + 1)) hi,
          .read ea (s.readWith hi ea), .write ea s.a] with
        ram := storeRam s.ram ea s.a }

/-! ### Loads -/

/-- R105, R108, R111. LDA, LDX, LDY immediate: the register takes the operand byte, Z and N follow it. -/
def Obligations.ImmediateLoads : Prop :=
  encodedAs .ldaImm 0xA9 .imm ∧ encodedAs .ldxImm 0xA2 .imm ∧ encodedAs .ldyImm 0xA0 .imm ∧
  ∀ (s t : State), t = { s.ran 1 [.read s.pc s.byte1] with p := setZN s.byte1 s.p } →
    exec .ldaImm s = .next { t with a := s.byte1 } ∧
    exec .ldxImm s = .next { t with x := s.byte1 } ∧
    exec .ldyImm s = .next { t with y := s.byte1 }

/-- R106, R109, R112. LDA, LDX, LDY zero page. -/
def Obligations.ZeroPageLoads : Prop :=
  encodedAs .ldaZp 0xA5 .zp ∧ encodedAs .ldxZp 0xA6 .zp ∧ encodedAs .ldyZp 0xA4 .zp ∧
  ∀ (s t : State),
    t = { s.ran 1 [.read s.pc s.byte1, .read s.zpAddr s.zpValue] with p := setZN s.zpValue s.p } →
    exec .ldaZp s = .next { t with a := s.zpValue } ∧
    exec .ldxZp s = .next { t with x := s.zpValue } ∧
    exec .ldyZp s = .next { t with y := s.zpValue }

/-- R107, R110, R113. LDA, LDX, LDY absolute. -/
def Obligations.AbsoluteLoads : Prop :=
  encodedAs .ldaAbs 0xAD .abs ∧ encodedAs .ldxAbs 0xAE .abs ∧ encodedAs .ldyAbs 0xAC .abs ∧
  ∀ (s t : State),
    t = { s.ran 2 [.read s.pc s.byte1, .read (s.pc + 1) s.byte2, .read s.addr16 s.absValue] with
      p := setZN s.absValue s.p } →
    exec .ldaAbs s = .next { t with a := s.absValue } ∧
    exec .ldxAbs s = .next { t with x := s.absValue } ∧
    exec .ldyAbs s = .next { t with y := s.absValue }

/-- A load from an address no device claims, of A, X or Y, returns the high operand byte, the last byte on the bus
(20_memory.md R44; 42_loads.md, common to all nine), sets Z and N from it, and emits the diagnostic. Only an absolute
load's data read can be at such an address. -/
def Obligations.OpenBusLoadReturnsTheHighOperandByte : Prop :=
  ∀ s : State, 0x2000 ≤ s.addr16.toNat → s.addr16.toNat ≤ 0xBFFF →
    ∀ ir ∈ [(Instr.ldaAbs, State.a), (Instr.ldxAbs, State.x), (Instr.ldyAbs, State.y)],
      ∃ t, exec ir.1 s = .next t ∧ ir.2 t = s.byte2 ∧ t.latch = s.byte2 ∧ t.p = setZN s.byte2 s.p ∧
        t.diagnostics.getLast? = some (.openRead s.addr16)

/-! ### Transfers -/

/-- R120 to R124. TSX, TAX, TAY, TYA copy a register and set Z and N from it; TXS copies X to SP and writes no
flag. -/
def Obligations.TransfersCopyRegisters : Prop :=
  encodedAs .tsx 0xBA .imp ∧ encodedAs .tax 0xAA .imp ∧ encodedAs .tay 0xA8 .imp ∧ encodedAs .tya 0x98 .imp ∧
  encodedAs .txs 0x9A .imp ∧
  ∀ (s t : State), t = s.ran 0 [.read s.pc s.byte1] →
    exec .tsx s = .next { t with x := s.sp, p := setZN s.sp s.p } ∧
    exec .tax s = .next { t with x := s.a, p := setZN s.a s.p } ∧
    exec .tay s = .next { t with y := s.a, p := setZN s.a s.p } ∧
    exec .tya s = .next { t with a := s.y, p := setZN s.y s.p } ∧
    exec .txs s = .next { t with sp := s.x }

/-! ### Jumps and subroutines -/

/-- R130. JMP absolute, low byte first (decision D12, log entry 22). -/
def Obligations.JmpLoadsTheProgramCounter : Prop :=
  encodedAs .jmpAbs 0x4C .abs ∧
  ∀ s : State, exec .jmpAbs s = .next
    { s.observe [.read s.pc s.byte1, .read (s.pc + 1) s.byte2] with pc := s.addr16 }

/-- R131. JSR: low operand byte, dummy read at SP's slot, the address of the third byte pushed high then low, and
only then the high operand byte fetched, from memory as the pushes left it. -/
def Obligations.JsrPushesThenFetchesTheHighByte : Prop :=
  encodedAs .jsrAbs 0x20 .abs ∧
  ∀ (s : State) (third : Addr) (ram : Memory) (old hi : Byte), third = s.pc + 1 →
    old = Memory.read s.ram (0x100 + s.sp.toNat) →
    ram = Memory.write (Memory.write s.ram (0x100 + s.sp.toNat) (highByte third))
      (0x100 + (s.sp - 1).toNat) (lowByte third) →
    hi = State.readWith { s with ram := ram } (lowByte third) third →
    exec .jsrAbs s = .next
      { s.observe [.read s.pc s.byte1, .read (stackAddr s.sp) old, .write (stackAddr s.sp) (highByte third),
          .write (stackAddr (s.sp - 1)) (lowByte third), .read third hi] with
        pc := joinBytes hi s.byte1, sp := s.sp - 2, ram := ram }

/-- R132. RTS: a read at PC, one dummy read at the old SP's slot (decision D6, log entry 17), low then high pulled,
a read at the pulled address, and PC one past it. -/
def Obligations.RtsPullsTheReturnAddress : Prop :=
  encodedAs .rts 0x60 .imp ∧
  ∀ (s : State) (old lo hi : Byte), old = Memory.read s.ram (0x100 + s.sp.toNat) →
    lo = Memory.read s.ram (0x100 + (s.sp + 1).toNat) → hi = Memory.read s.ram (0x100 + (s.sp + 2).toNat) →
    exec .rts s = .next
      { s.observe [.read s.pc s.byte1, .read (stackAddr s.sp) old, .read (stackAddr (s.sp + 1)) lo,
          .read (stackAddr (s.sp + 2)) hi, .read (joinBytes hi lo) (s.readWith hi (joinBytes hi lo))] with
        pc := joinBytes hi lo + 1, sp := s.sp + 2 }

/-- After a JSR, from every state the subroutine may leave with SP and the two stack slots as the JSR left them,
whatever else it changed (registers, other memory, latch, cartridge), RTS continues after the three bytes of the JSR with
SP as before (R132: "after a JSR at address j, at j + 3"; here PC starts at j + 1), the two slots holding j + 2. The
JSR starts in canonical storage (StepKeepsTheInvariant). -/
def Obligations.RtsReturnsAfterTheJsr : Prop :=
  ∀ (s : State), s.ram.wf = true → ∃ t, exec .jsrAbs s = .next t ∧
    t.byteAt (stackAddr s.sp) = some (highByte (s.pc + 1)) ∧
    t.byteAt (stackAddr (s.sp - 1)) = some (lowByte (s.pc + 1)) ∧
    ∀ u : State, u.sp = t.sp → u.byteAt (stackAddr s.sp) = t.byteAt (stackAddr s.sp) →
      u.byteAt (stackAddr (s.sp - 1)) = t.byteAt (stackAddr (s.sp - 1)) →
      ∃ w, exec .rts u = .next w ∧ w.pc = s.pc + 2 ∧ w.sp = s.sp

/-- PHP followed by PLP restores P and SP, from every state with SP and the stack slot as the PHP left them, whatever
else changed in between (40_stack.md R82). The PHP starts in canonical storage (StepKeepsTheInvariant). -/
def Obligations.PlpRestoresWhatPhpPushed : Prop :=
  ∀ (s : State), s.ram.wf = true → ∃ t, exec .php s = .next t ∧ t.byteAt (stackAddr s.sp) = some s.p ∧
    ∀ u : State, u.sp = t.sp → u.byteAt (stackAddr s.sp) = t.byteAt (stackAddr s.sp) →
      ∃ w, exec .plp u = .next w ∧ w.p = s.p ∧ w.sp = s.sp

/-! ### Increment and decrement -/

/-- R140 to R143. INX, INY, DEX, DEY: modulo 256, Z and N from the result, C and V kept. -/
def Obligations.IndexIncrementsAndDecrements : Prop :=
  encodedAs .inx 0xE8 .imp ∧ encodedAs .iny 0xC8 .imp ∧ encodedAs .dex 0xCA .imp ∧ encodedAs .dey 0x88 .imp ∧
  ∀ (s t : State), t = s.ran 0 [.read s.pc s.byte1] →
    exec .inx s = .next { t with x := s.x + 1, p := setZN (s.x + 1) s.p } ∧
    exec .iny s = .next { t with y := s.y + 1, p := setZN (s.y + 1) s.p } ∧
    exec .dex s = .next { t with x := s.x - 1, p := setZN (s.x - 1) s.p } ∧
    exec .dey s = .next { t with y := s.y - 1, p := setZN (s.y - 1) s.p }

/-- R144. INC zero page: read, write the value back, write it plus one. -/
def Obligations.IncRewritesThenIncrements : Prop :=
  encodedAs .incZp 0xE6 .zp ∧
  ∀ (s : State) (v : Byte), v = s.zpValue →
    exec .incZp s = .next
      { s.ran 1 [.read s.pc s.byte1, .read s.zpAddr v, .write s.zpAddr v, .write s.zpAddr (v + 1)] with
        ram := storeRam (storeRam s.ram s.zpAddr v) s.zpAddr (v + 1), p := setZN (v + 1) s.p }

/-! ### Flag instructions -/

/-- R150, R151. SEI makes P `P | 0x04`, CLD makes it `P & 0xF7`; nothing else changes. -/
def Obligations.SeiAndCldWriteOneFlag : Prop :=
  encodedAs .sei 0x78 .imp ∧ encodedAs .cld 0xD8 .imp ∧
  ∀ s : State,
    exec .sei s = .next { s.ran 0 [.read s.pc s.byte1] with p := s.p ||| 0x04 } ∧
    exec .cld s = .next { s.ran 0 [.read s.pc s.byte1] with p := s.p &&& 0xF7 }

/-! ### Branches -/

/-- R155 to R160. The five branches, each on its condition: not taken, one fetch; taken in the page, the same and PC
at the target; taken to another page, one extra read at the target. No flag is written. That crossing is a change of
the high byte is decision D7 (log entry 18). -/
def Obligations.BranchesFollowTheCommonSequence : Prop :=
  encodedAs .bne 0xD0 .rel ∧ encodedAs .beq 0xF0 .rel ∧ encodedAs .bpl 0x10 .rel ∧ encodedAs .bmi 0x30 .rel ∧
  encodedAs .bcc 0x90 .rel ∧
  ∀ (s : State) (i : Instr) (taken : Bool),
    (i, taken) ∈ [(Instr.bne, !getFlag .z s.p), (Instr.beq, getFlag .z s.p), (Instr.bpl, !getFlag .n s.p),
      (Instr.bmi, getFlag .n s.p), (Instr.bcc, !getFlag .c s.p)] →
    (taken = false → exec i s = .next (s.ran 1 [.read s.pc s.byte1])) ∧
    (taken = true → highByte s.branchTarget = highByte (s.pc + 1) →
      exec i s = .next { s.observe [.read s.pc s.byte1] with pc := s.branchTarget }) ∧
    (taken = true → highByte s.branchTarget ≠ highByte (s.pc + 1) →
      exec i s = .next
        { s.observe [.read s.pc s.byte1, .read s.branchTarget (s.readWith s.byte1 s.branchTarget)] with
          pc := s.branchTarget })

/-! ### Logic and compare -/

/-- R170 to R173. ORA and EOR, immediate and zero page: into A, Z and N from the new A. -/
def Obligations.OraAndEorCombineWithA : Prop :=
  encodedAs .oraImm 0x09 .imm ∧ encodedAs .oraZp 0x05 .zp ∧ encodedAs .eorImm 0x49 .imm ∧ encodedAs .eorZp 0x45 .zp ∧
  ∀ (s i z : State) (m v : Byte), m = s.byte1 → v = s.zpValue → i = s.ran 1 [.read s.pc m] →
    z = s.ran 1 [.read s.pc m, .read s.zpAddr v] →
    exec .oraImm s = .next { i with a := s.a ||| m, p := setZN (s.a ||| m) s.p } ∧
    exec .eorImm s = .next { i with a := s.a ^^^ m, p := setZN (s.a ^^^ m) s.p } ∧
    exec .oraZp s = .next { z with a := s.a ||| v, p := setZN (s.a ||| v) s.p } ∧
    exec .eorZp s = .next { z with a := s.a ^^^ v, p := setZN (s.a ^^^ v) s.p }

/-- R174, R175. BIT, zero page and absolute: Z from `m & A`, N and V from bits 7 and 6 of the memory byte, every
other flag and A kept. -/
def Obligations.BitTestsMemoryAgainstA : Prop :=
  encodedAs .bitZp 0x24 .zp ∧ encodedAs .bitAbs 0x2C .abs ∧
  (∀ (a m p : Byte) (f : Flag), getFlag f (bitFlags a m p) =
    if f = .z then (m &&& a) == 0 else if f = .n then m.getLsbD 7 else if f = .v then m.getLsbD 6 else getFlag f p) ∧
  ∀ s : State,
    exec .bitZp s = .next { s.ran 1 [.read s.pc s.byte1, .read s.zpAddr s.zpValue] with
      p := bitFlags s.a s.zpValue s.p } ∧
    exec .bitAbs s = .next
      { s.ran 2 [.read s.pc s.byte1, .read (s.pc + 1) s.byte2, .read s.addr16 s.absValue] with
        p := bitFlags s.a s.absValue s.p }

/-- R176, R177, R178. CMP and CPY immediate: C from the unsigned comparison, Z from equality, N from bit 7 of the
left operand; every other flag and the register kept. -/
def Obligations.ComparesFollowTheCompareLaw : Prop :=
  encodedAs .cmpImm 0xC9 .imm ∧ encodedAs .cpyImm 0xC0 .imm ∧
  (∀ (l m p : Byte) (f : Flag), getFlag f (compareFlags l m p) =
    if f = .c then decide (m.toNat ≤ l.toNat) else if f = .z then l == m
    else if f = .n then l.getLsbD 7 else getFlag f p) ∧
  ∀ s : State,
    exec .cmpImm s = .next { s.ran 1 [.read s.pc s.byte1] with p := compareFlags s.a s.byte1 s.p } ∧
    exec .cpyImm s = .next { s.ran 1 [.read s.pc s.byte1] with p := compareFlags s.y s.byte1 s.p }

/-! ### Shifts -/

/-- R185, R186. LSR and ROR zero page: read, write the value back, write the shifted value; C from the old bit 0,
the old carry into bit 7 for ROR, Z and N from the result. -/
def Obligations.MemoryShiftsMoveOneBitRight : Prop :=
  encodedAs .lsrZp 0x46 .zp ∧ encodedAs .rorZp 0x66 .zp ∧
  ∀ (s : State) (v r q : Byte), v = s.zpValue → r = v >>> 1 →
    q = (if getFlag .c s.p then 0x80 else 0x00) ||| (v >>> 1) →
    exec .lsrZp s = .next
      { s.ran 1 [.read s.pc s.byte1, .read s.zpAddr v, .write s.zpAddr v, .write s.zpAddr r] with
        ram := storeRam (storeRam s.ram s.zpAddr v) s.zpAddr r
        p := setZN r (putFlag .c (v.getLsbD 0) s.p) } ∧
    exec .rorZp s = .next
      { s.ran 1 [.read s.pc s.byte1, .read s.zpAddr v, .write s.zpAddr v, .write s.zpAddr q] with
        ram := storeRam (storeRam s.ram s.zpAddr v) s.zpAddr q
        p := setZN q (putFlag .c (v.getLsbD 0) s.p) }

/-- R187. ROR accumulator, with the dummy read of decision D11 (log entry 21); and nine in a row restore A and C. -/
def Obligations.RorAccumulatorIsANineBitRotation : Prop :=
  encodedAs .rorAcc 0x6A .acc ∧
  (∀ (s : State) (r : Byte), r = (if getFlag .c s.p then 0x80 else 0x00) ||| (s.a >>> 1) →
    exec .rorAcc s = .next { s.ran 0 [.read s.pc s.byte1] with
      a := r, p := setZN r (putFlag .c (s.a.getLsbD 0) s.p) }) ∧
  ∀ s : State, ∃ t, execTimes 9 .rorAcc s = .next t ∧ t.a = s.a ∧ getFlag .c t.p = getFlag .c s.p

/-! ### Steps and stops -/

/-- When the bytes at PC decode to an instruction, a step of a running core is the opcode fetch and then that
instruction, and it completes (30_encoding.md R60, R62, R63). The two bytes after the opcode are read as fetches
in a row would return them. -/
def Obligations.StepRunsTheDecodedInstruction : Prop :=
  ∀ (s : State) (op b1 b2 : Byte) (c : Code) (rest : List Byte), s.run = .running →
    op = s.readWith s.latch s.pc → b1 = s.readWith op (s.pc + 1) → b2 = s.readWith b1 (s.pc + 2) →
    decode [op, b1, b2] = .ok (c, rest) →
    step s = exec c.instr (s.ran 1 [.read s.pc op]) ∧ ∃ t, step s = .next t

/-- The operand bytes the fetches after the opcode return are those of the instruction that the bytes at PC decode
to (30_encoding.md R61, R62), in memory and in open bus alike. -/
def Obligations.FetchesReturnTheDecodedOperand : Prop :=
  ∀ (s : State) (op b1 b2 : Byte) (c : Code) (rest : List Byte),
    op = s.readWith s.latch s.pc → b1 = s.readWith op (s.pc + 1) → b2 = s.readWith b1 (s.pc + 2) →
    decode [op, b1, b2] = .ok (c, rest) →
    (fetch s).1 = c.instr.opcode ∧ fetchMany (operandLength c.instr.format) (fetch s).2 = c.operand.bytes

/-- R202. A fetched opcode byte outside the table stops the core: the opcode fetch has happened, the run state is
`FAULT(opcode)`, and nothing else has changed (decision D15, log entry 9). -/
def Obligations.UnimplementedOpcodeStopsTheCore : Prop :=
  ∀ (s : State) (op : Byte), s.run = .running → op = s.readWith s.latch s.pc → (∀ i : Instr, i.opcode ≠ op) →
    step s = .fault (.fatalStop op { s.ran 1 [.read s.pc op] with run := .fault op })

/-- R200. A running core stops on exactly those fetches, naming the byte, and no instruction, in any state, stops.
-/
def Obligations.NothingElseStopsTheCore : Prop :=
  (∀ (i : Instr) (s : State), ∃ t, exec i s = .next t) ∧
  ∀ s : State, s.run = .running →
    ((∃ t, step s = .next t) ↔ ∃ i : Instr, i.opcode = s.readWith s.latch s.pc) ∧
    (∀ f, step s = .fault f → ∃ stop, f = .fatalStop (s.readWith s.latch s.pc) stop) ∧ ∀ r, step s ≠ .refused r

/-- A core in `FAULT(opcode)` answers every step with the same stop and the state as it is (10_state.md R24,
60_exceptions.md R203; decision D15, log entry 9). -/
def Obligations.AStoppedCoreStaysStopped : Prop :=
  ∀ (s : State) (op : Byte), s.run = .fault op → step s = .fault (.fatalStop op s)

/-! ### Power-on and reset -/

/-- R220. A launch with parameters of their sizes constructs the block: A, X, Y, PC 0, SP 0xFF, P, RAM and latch as
supplied, the banks in order, and nothing run yet (decisions D3, D13, D14, D17). -/
def Obligations.PowerOnStateIsAsSupplied : Prop :=
  ∀ (l : Config.Launch), l.valid = true → ∃ s earlier last, launch l = .next s ∧
    s.a = 0x00 ∧ s.x = 0x00 ∧ s.y = 0x00 ∧ s.pc = 0x0000 ∧ s.sp = 0xFF ∧ s.p = l.powerOnP ∧
    s.p.getLsbD 5 = true ∧ s.latch = l.latchInit ∧ s.run = .notRunning ∧ s.trace = [] ∧ s.diagnostics = [] ∧
    (∀ k < 2048, Memory.read s.ram k = l.ramInit.getD k 0) ∧
    s.cart.mapper = .fixedBank earlier last ∧ (earlier ++ [last]).length = l.prgBanks.length ∧
    ∀ (n k : Nat), n < l.prgBanks.length → k < 16384 →
      Memory.read ((earlier ++ [last]).getD n []) k = (l.prgBanks.getD n []).getD k 0

/-- R221. The reset sequence of a core just powered on: SP minus 3, I set, the vector read low byte first, PC
loaded, RUNNING; exactly two bus accesses. The vector's address is decision D2 (log entry 2). -/
def Obligations.ResetSequenceReadsTheVector : Prop :=
  ∀ (s : State) (lo hi : Byte), s.run = .notRunning → lo = s.readWith s.latch 0xFFFC → hi = s.readWith lo 0xFFFD →
    resetSequence s = { s.observe [.read 0xFFFC lo, .read 0xFFFD hi] with
      sp := s.sp - 3, p := s.p ||| 0x04, pc := joinBytes hi lo, run := .running }

/-- R222, which the spec derives, with 10_state.md R26. The whole state after power-on and the reset sequence, for every
launch: the cartridge is the one powered on (PowerOnStateIsAsSupplied), serving the last bank. -/
def Obligations.StateAfterPowerOnReset : Prop :=
  ∀ (l : Config.Launch) (earlier : List (List Byte)) (bank : List Byte), l.valid = true →
    l.prgBanks = earlier ++ [bank] → ∃ s t, launch l = .next s ∧ resetSequence s = t ∧
    t.a = 0 ∧ t.x = 0 ∧ t.y = 0 ∧ t.sp = 0xFC ∧ t.p = l.powerOnP ||| 0x04 ∧
    t.pc = joinBytes (bank.getD 0x3FFD 0) (bank.getD 0x3FFC 0) ∧ t.latch = bank.getD 0x3FFD 0 ∧
    (∀ k < 2048, Memory.read t.ram k = l.ramInit.getD k 0) ∧ t.run = .running ∧
    t.cart = s.cart ∧ (∀ k < 16384, t.cart.read (0xC000 + BitVec.ofNat 16 k) = some (bank.getD k 0)) ∧
    t.diagnostics = [] ∧ t.trace = [.read 0xFFFC (bank.getD 0x3FFC 0), .read 0xFFFD (bank.getD 0x3FFD 0)]

/-- Before the reset sequence no instruction runs: the step of a powered-on core is that sequence. The model's
choice of when it runs (log entry 10), on "the reset sequence runs first" (R220). -/
def Obligations.TheFirstStepIsTheResetSequence : Prop :=
  ∀ s : State, s.run = .notRunning → step s = .next (resetSequence s)

/-- `State.reset` is what the reset sequence makes of the blank launch: the model's choice of parameters (log
entries 3 to 6), on the spec's rules R220 to R222. -/
def Obligations.ResetStateIsTheBlankLaunch : Prop :=
  Config.Launch.blank.valid = true ∧
  ∃ s, launch Config.Launch.blank = .next s ∧ resetSequence s = State.reset

/-! ### Frames over all instructions -/

/-- A, X, Y and SP change only by the instructions that 10_state.md R11 to R14 list for them. -/
def Obligations.RegistersChangeOnlyByTheirWriters : Prop :=
  ∀ (i : Instr) (s : State), ∃ t, exec i s = .next t ∧
    (i ∉ writesA → t.a = s.a) ∧ (i ∉ writesX → t.x = s.x) ∧ (i ∉ writesY → t.y = s.y) ∧ (i ∉ writesSp → t.sp = s.sp)

/-- Each flag changes only by the instructions that 10_state.md R18 lists for it. -/
def Obligations.FlagsChangeOnlyByTheirWriters : Prop :=
  ∀ (i : Instr) (s : State), ∃ t, exec i s = .next t ∧
    ∀ f : Flag, i ∉ writesFlag f → getFlag f t.p = getFlag f s.p

/-- Every byte of memory reads as before except the bytes an instruction stores to, at the addresses its own
operand operation forms; no bank and no run state changes (10_state.md R22, R23). -/
def Obligations.MemoryChangesOnlyAtTheStoreTargets : Prop :=
  ∀ (i : Instr) (s : State), ∃ t, exec i s = .next t ∧ t.cart = s.cart ∧ t.run = s.run ∧
    ∀ q : Addr, (∀ ea ∈ storeTargets i s, ¬ sameRamByte ea q) → t.byteAt q = s.byteAt q

/-- PC advances over the operand bytes alone, but for the control transfers (10_state.md R15, R16). -/
def Obligations.ProgramCounterAdvancesOverTheOperand : Prop :=
  ∀ (i : Instr) (s : State), i ∉ transfersControl →
    ∃ t, exec i s = .next t ∧ t.pc = s.pc + BitVec.ofNat 16 (operandLength i.format)

/-- R229, with the table of R64: each instruction makes exactly its number of bus accesses, one of them the opcode
fetch before it. -/
def Obligations.AccessCountsAreExact : Prop :=
  ∀ (i : Instr) (s : State), ∃ t, exec i s = .next t ∧ t.trace.length + 1 = s.trace.length + accesses i s

/-- R20, which the spec derives. I, D, B and U have no effect on execution: two states that differ only in them run
every instruction but PHP alike, and still differ only in them; PHP shows them in the byte it pushes. -/
def Obligations.UnusedFlagsHaveNoEffect : Prop :=
  (∀ (i : Instr) (s : State) (q : Byte), i ≠ .php → s.p &&& 0xC3 = q &&& 0xC3 →
    ∃ t r, exec i s = .next t ∧ exec i { s with p := q } = .next { t with p := r } ∧ t.p &&& 0xC3 = r &&& 0xC3) ∧
  ∀ s : State, ∃ t, exec .php s = .next t ∧ t.p = s.p ∧ t.trace.getLast? = some (.write (stackAddr s.sp) s.p)

/-- R45. "No component's behavior depends on reading them back": with any other trace and diagnostics so far, an
instruction does the same and adds the same. -/
def Obligations.OutputsAreNeverReadBack : Prop :=
  ∀ (i : Instr) (s : State) (tr : List BusEvent) (dg : List Diagnostic), ∃ t es ds, exec i s = .next t ∧
    t.trace = s.trace ++ es ∧ t.diagnostics = s.diagnostics ++ ds ∧
    exec i { s with trace := tr, diagnostics := dg } = .next { t with trace := tr ++ es, diagnostics := dg ++ ds }

/-- R55, which the spec derives. A store in WorkRAM is what every later fetch from the same physical byte returns, after
any accesses that do not store to that byte; in the same instruction too: a JSR whose first push overwrites its own high
operand byte jumps to the new byte's page. No accesses change a byte of the cartridge range. In canonical storage
(StepKeepsTheInvariant). -/
def Obligations.StoresAreSeenByLaterFetches : Prop :=
  (∀ (s : State) (p q : Addr) (v : Byte) (as : List Access), s.ram.wf = true → sameRamByte p q →
    (∀ a ∈ as, ¬ a.storesTo q) → (fetch { performAll as (busWrite p v s) with pc := q }).1 = v) ∧
  (∀ (s : State), s.ram.wf = true → sameRamByte (stackAddr s.sp) (s.pc + 1) →
    ∃ t, exec .jsrAbs s = .next t ∧ t.pc = joinBytes (highByte (s.pc + 1)) s.byte1) ∧
  ∀ (s : State) (q : Addr) (as : List Access), 0xC000 ≤ q.toNat → (performAll as s).byteAt q = s.byteAt q

/-! ### Whole runs -/

/-- Every step of a running core is its list of bus transactions: the trace and the diagnostics grow by them, and
the bus run again from them, each read returning what the devices and the latch held at that moment and each write
stored, ends in the WorkRAM and latch of the new state; the cartridge is unchanged (20_memory.md R40, R41, R53,
R57). -/
def Obligations.EveryStepReplaysOnTheBus : Prop :=
  ∀ (s t : State), s.run = .running → step s = .next t → ∃ es,
    t.trace = s.trace ++ es ∧ t.diagnostics = s.diagnostics ++ diagnosticsOf es ∧
    t.cart = s.cart ∧ replay s.cart (s.ram, s.latch) es = some (t.ram, t.latch)

/-- Every step keeps the invariant (Safety.lean): storage in canonical form and size, the core RUNNING, the latch
the last byte moved, the diagnostics those of the trace, and the trace starting with the vector reads. -/
def Obligations.StepKeepsTheInvariant : Prop :=
  ∀ (s t : State), s.Inv → step s = .next t → t.Inv

/-- The state after reset has the invariant, for `State.reset` and for every launch. -/
def Obligations.ResetHasTheInvariant : Prop :=
  State.reset.Inv ∧
  ∀ (l : Config.Launch), l.valid = true → ∃ s, launch l = .next s ∧ (resetSequence s).Inv

/-- The whole trace explains the state: replayed from the block just powered on, each read returning what the devices and
the latch held at that moment and each write stored, it gives the WorkRAM and the latch, and every step keeps that, the
reset sequence included (20_memory.md R40, R41, R53, R57). -/
def Obligations.StepKeepsTheWholeTraceReplay : Prop :=
  ∀ (s₀ s t : State), s.ReplaysFrom s₀ → step s = .next t → t.ReplaysFrom s₀

/-- A block just powered on replays from itself, for every launch, and so does the state after its reset sequence. -/
def Obligations.LaunchAndResetReplay : Prop :=
  ∀ (l : Config.Launch), l.valid = true → ∃ s₀, launch l = .next s₀ ∧ s₀.ReplaysFrom s₀ ∧
    (resetSequence s₀).ReplaysFrom s₀
end

