-- ==== Sys2Proof/Laws/Memory.lean ====
section
/-! SUPPORT. Byte storage: read over write, and every operation keeps the canonical form. -/

namespace Sys2Proof.Machine

namespace Memory

/-- What the canonical form from an index up says of a cell in front. -/
theorem wfFrom_cons {lo a : Nat} {b : Byte} {m : Memory} :
    wfFrom lo ((a, b) :: m) = true ↔ lo ≤ a ∧ b ≠ unlisted ∧ wfFrom (a + 1) m = true := by
  simp [wfFrom, and_assoc]

theorem wfFrom_mono {lo lo' : Nat} {m : Memory} (h : wfFrom lo m = true) (hle : lo' ≤ lo) :
    wfFrom lo' m = true := by
  cases m with
  | nil => rfl
  | cons c m =>
    obtain ⟨h1, h2⟩ := wfFrom_cons.1 h
    exact wfFrom_cons.2 ⟨hle.trans h1, h2⟩

/-- Below the first index of a canonical list nothing is listed. -/
theorem read_below {lo k : Nat} {m : Memory} (h : wfFrom lo m = true) (hk : k < lo) :
    read m k = unlisted := by
  induction m generalizing lo with
  | nil => rfl
  | cons c m ih =>
    obtain ⟨h1, -, h3⟩ := wfFrom_cons.1 h
    have hne : c.1 ≠ k := by omega
    simpa [read, hne] using ih h3 (by omega)

/-- A read after a write to the same index gives the value written. -/
theorem read_write_same {lo : Nat} {m : Memory} (h : wfFrom lo m = true) (k : Nat) (v : Byte) :
    read (write m k v) k = v := by
  induction m generalizing lo with
  | nil => by_cases hv : v = unlisted <;> simp [write, read, hv]
  | cons c m ih =>
    obtain ⟨-, -, h3⟩ := wfFrom_cons.1 h
    rcases lt_trichotomy k c.1 with hk | hk | hk
    · by_cases hv : v = unlisted
      · have hne : c.1 ≠ k := by omega
        simpa [write, hk, hv, read, hne] using read_below h3 (by omega)
      · simp [write, hk, hv, read]
    · by_cases hv : v = unlisted
      · simpa [write, hk, hv] using read_below h3 (by omega)
      · simp [write, hk, hv, read]
    · have h1 : ¬ k < c.1 := by omega
      have h2 : k ≠ c.1 := by omega
      simpa [write, h1, h2, read, h2.symm] using ih h3

/-- A write leaves every other index alone. -/
theorem read_write_other {m : Memory} {j k : Nat} (hjk : j ≠ k) (v : Byte) :
    read (write m k v) j = read m j := by
  induction m with
  | nil =>
    by_cases hv : v = unlisted
    · simp [write, hv]
    · simp [write, hv, read, hjk.symm]
  | cons c m ih =>
    obtain ⟨a, b⟩ := c
    rcases lt_trichotomy k a with hk | rfl | hk
    · by_cases hv : v = unlisted
      · simp [write, hk, hv]
      · simp [write, hk, hv, read, hjk.symm]
    · by_cases hv : v = unlisted
      · simp [write, hv, read, hjk.symm]
      · simp [write, hv, read, hjk.symm]
    · have h1 : ¬ k < a := by omega
      have h2 : k ≠ a := by omega
      by_cases ha : a = j
      · subst ha
        simp [write, h1, h2, read]
      · simpa [write, h1, h2, read, ha] using ih

theorem wfFrom_write {lo k : Nat} {m : Memory} (h : wfFrom lo m = true) (hk : lo ≤ k) (v : Byte) :
    wfFrom lo (write m k v) = true := by
  induction m generalizing lo with
  | nil => by_cases hv : v = unlisted <;> simp [write, hv, wfFrom, hk]
  | cons c m ih =>
    obtain ⟨a, b⟩ := c
    obtain ⟨h1, h2, h3⟩ := wfFrom_cons.1 h
    rcases lt_trichotomy k a with hka | rfl | hka
    · by_cases hv : v = unlisted
      · simpa [write, hka, hv] using h
      · simpa [write, hka, hv, wfFrom_cons, hk, h3] using h2
    · by_cases hv : v = unlisted
      · simpa [write, hv] using wfFrom_mono h3 (by omega)
      · simpa [write, hv, wfFrom_cons, hk] using h3
    · have n1 : ¬ k < a := by omega
      have n2 : k ≠ a := by omega
      simpa [write, n1, n2, wfFrom_cons] using ⟨h1, h2, ih h3 (by omega)⟩

/-- A write keeps the canonical form. -/
theorem wf_write {m : Memory} (h : m.wf = true) (k : Nat) (v : Byte) : (write m k v).wf = true :=
  wfFrom_write h (Nat.zero_le k) v

theorem within_write {size k : Nat} {m : Memory} (h : m.within size = true) (hk : k < size) (v : Byte) :
    (write m k v).within size = true := by
  induction m with
  | nil => by_cases hv : v = unlisted <;> simp [write, hv, within, hk]
  | cons c m ih =>
    obtain ⟨a, b⟩ := c
    have h1 : a < size := by simp [within] at h; omega
    have h2 : within size m = true := by simp [within] at h ⊢; exact h.2
    have h3 := ih h2
    simp only [within] at h2 h3 ⊢
    simp only [write]
    split_ifs <;> simp [h1, h2, h3, hk]

/-- A write below the size keeps storage of that size in canonical form. -/
theorem ok_write {size k : Nat} {m : Memory} (h : Memory.ok size m) (hk : k < size) (v : Byte) :
    Memory.ok size (write m k v) :=
  ⟨wf_write h.1 k v, within_write h.2 hk v⟩

theorem wfFrom_ofBytes (bs : List Byte) (k : Nat) : wfFrom k (ofBytes k bs) = true := by
  induction bs generalizing k with
  | nil => rfl
  | cons b bs ih =>
    by_cases hb : b = unlisted
    · simpa [ofBytes, hb] using wfFrom_mono (ih (k + 1)) (by omega)
    · simpa [ofBytes, hb, wfFrom_cons] using ih (k + 1)

theorem mem_ofBytes_lt {bs : List Byte} {k : Nat} {c : Host.Cell} (h : c ∈ ofBytes k bs) :
    c.1 < k + bs.length := by
  induction bs generalizing k with
  | nil => simp [ofBytes] at h
  | cons b bs ih =>
    have key : c ∈ ofBytes (k + 1) bs → c.1 < k + (b :: bs).length := fun hm => by
      have := ih hm
      simp only [List.length_cons]
      omega
    by_cases hb : b = unlisted
    · exact key (by simpa [ofBytes, hb] using h)
    · rcases (by simpa [ofBytes, hb] using h : c = (k, b) ∨ c ∈ ofBytes (k + 1) bs) with rfl | hm
      · simp
      · exact key hm

/-- The bytes of a launch parameter are storage of their own length in canonical form. -/
theorem ok_ofBytes (bs : List Byte) : Memory.ok bs.length (ofBytes 0 bs) := by
  refine ⟨wfFrom_ofBytes bs 0, ?_⟩
  simp only [within, List.all_eq_true, decide_eq_true_eq]
  intro c hc
  simpa using mem_ofBytes_lt hc

/-- Storage built from bytes reads as those bytes. -/
theorem read_ofBytes (bs : List Byte) (k j : Nat) (hj : j < bs.length) :
    read (ofBytes k bs) (k + j) = bs.getD j 0 := by
  induction bs generalizing k j with
  | nil => simp at hj
  | cons b bs ih =>
    cases j with
    | zero =>
      by_cases hb : b = unlisted
      · simpa [ofBytes, hb] using read_below (wfFrom_ofBytes bs (k + 1)) (by omega)
      · simp [ofBytes, hb, read]
    | succ j =>
      have h := ih (k + 1) j (by simpa using hj)
      have e : k + 1 + j = k + (j + 1) := by omega
      rw [e] at h
      by_cases hb : b = unlisted
      · simpa [ofBytes, hb] using h
      · simpa [ofBytes, hb, read] using h

/-- Zero bytes list nothing. -/
theorem ofBytes_replicate (n k : Nat) : ofBytes k (List.replicate n 0x00) = [] := by
  induction n generalizing k with
  | zero => rfl
  | succ n ih => simpa [List.replicate_succ, ofBytes, unlisted] using ih (k + 1)

/-- A canonical list is determined by what it reads as, so equal memories are equal data. -/
theorem ext_of_wfFrom {m n : Memory} {lo : Nat} (hm : wfFrom lo m = true) (hn : wfFrom lo n = true)
    (h : ∀ k, read m k = read n k) : m = n := by
  induction m generalizing n lo with
  | nil =>
    cases n with
    | nil => rfl
    | cons c n =>
      obtain ⟨-, h2, -⟩ := wfFrom_cons.1 hn
      exact absurd (by simpa [read] using (h c.1).symm) h2
  | cons c m ih =>
    obtain ⟨a, b⟩ := c
    obtain ⟨m1, m2, m3⟩ := wfFrom_cons.1 hm
    cases n with
    | nil => exact absurd (by simpa [read] using h a) m2
    | cons d n =>
      obtain ⟨a', b'⟩ := d
      obtain ⟨n1, n2, n3⟩ := wfFrom_cons.1 hn
      have haa : a = a' := by
        rcases lt_trichotomy a a' with hlt | heq | hlt
        · have := h a
          rw [read_below (lo := a') (m := (a', b') :: n) (wfFrom_cons.2 ⟨le_refl _, n2, n3⟩) hlt] at this
          exact absurd (by simpa [read] using this) m2
        · exact heq
        · have := h a'
          rw [read_below (lo := a) (m := (a, b) :: m) (wfFrom_cons.2 ⟨le_refl _, m2, m3⟩) hlt] at this
          exact absurd (by simpa [read] using this.symm) n2
      subst haa
      have hb : b = b' := by simpa [read] using h a
      subst hb
      have : m = n := by
        refine ih m3 n3 fun k => ?_
        by_cases hk : a = k
        · rw [read_below m3 (by omega), read_below n3 (by omega)]
        · simpa [read, hk] using h k
      rw [this]

theorem eq_of_read_eq {m n : Memory} (hm : m.wf = true) (hn : n.wf = true)
    (h : ∀ k, read m k = read n k) : m = n :=
  ext_of_wfFrom hm hn h

end Memory

end Sys2Proof.Machine
end

