-- ==== Sys2Proof/Laws/State.lean ====
section
/-! SUPPORT. One lemma per field per update of State, so that no proof unfolds a record update. -/

namespace Sys2Proof.Machine

variable (s : State)

@[simp] theorem State.setA_a (v : Byte) : (s.setA v).a = v := rfl
@[simp] theorem State.setA_x (v : Byte) : (s.setA v).x = s.x := rfl
@[simp] theorem State.setA_y (v : Byte) : (s.setA v).y = s.y := rfl
@[simp] theorem State.setA_sp (v : Byte) : (s.setA v).sp = s.sp := rfl
@[simp] theorem State.setA_pc (v : Byte) : (s.setA v).pc = s.pc := rfl
@[simp] theorem State.setA_p (v : Byte) : (s.setA v).p = s.p := rfl
@[simp] theorem State.setA_latch (v : Byte) : (s.setA v).latch = s.latch := rfl
@[simp] theorem State.setA_ram (v : Byte) : (s.setA v).ram = s.ram := rfl
@[simp] theorem State.setA_cart (v : Byte) : (s.setA v).cart = s.cart := rfl
@[simp] theorem State.setA_run (v : Byte) : (s.setA v).run = s.run := rfl
@[simp] theorem State.setA_trace (v : Byte) : (s.setA v).trace = s.trace := rfl
@[simp] theorem State.setA_diagnostics (v : Byte) : (s.setA v).diagnostics = s.diagnostics := rfl

@[simp] theorem State.setX_a (v : Byte) : (s.setX v).a = s.a := rfl
@[simp] theorem State.setX_x (v : Byte) : (s.setX v).x = v := rfl
@[simp] theorem State.setX_y (v : Byte) : (s.setX v).y = s.y := rfl
@[simp] theorem State.setX_sp (v : Byte) : (s.setX v).sp = s.sp := rfl
@[simp] theorem State.setX_pc (v : Byte) : (s.setX v).pc = s.pc := rfl
@[simp] theorem State.setX_p (v : Byte) : (s.setX v).p = s.p := rfl
@[simp] theorem State.setX_latch (v : Byte) : (s.setX v).latch = s.latch := rfl
@[simp] theorem State.setX_ram (v : Byte) : (s.setX v).ram = s.ram := rfl
@[simp] theorem State.setX_cart (v : Byte) : (s.setX v).cart = s.cart := rfl
@[simp] theorem State.setX_run (v : Byte) : (s.setX v).run = s.run := rfl
@[simp] theorem State.setX_trace (v : Byte) : (s.setX v).trace = s.trace := rfl
@[simp] theorem State.setX_diagnostics (v : Byte) : (s.setX v).diagnostics = s.diagnostics := rfl

@[simp] theorem State.setY_a (v : Byte) : (s.setY v).a = s.a := rfl
@[simp] theorem State.setY_x (v : Byte) : (s.setY v).x = s.x := rfl
@[simp] theorem State.setY_y (v : Byte) : (s.setY v).y = v := rfl
@[simp] theorem State.setY_sp (v : Byte) : (s.setY v).sp = s.sp := rfl
@[simp] theorem State.setY_pc (v : Byte) : (s.setY v).pc = s.pc := rfl
@[simp] theorem State.setY_p (v : Byte) : (s.setY v).p = s.p := rfl
@[simp] theorem State.setY_latch (v : Byte) : (s.setY v).latch = s.latch := rfl
@[simp] theorem State.setY_ram (v : Byte) : (s.setY v).ram = s.ram := rfl
@[simp] theorem State.setY_cart (v : Byte) : (s.setY v).cart = s.cart := rfl
@[simp] theorem State.setY_run (v : Byte) : (s.setY v).run = s.run := rfl
@[simp] theorem State.setY_trace (v : Byte) : (s.setY v).trace = s.trace := rfl
@[simp] theorem State.setY_diagnostics (v : Byte) : (s.setY v).diagnostics = s.diagnostics := rfl

@[simp] theorem State.setSp_a (v : Byte) : (s.setSp v).a = s.a := rfl
@[simp] theorem State.setSp_x (v : Byte) : (s.setSp v).x = s.x := rfl
@[simp] theorem State.setSp_y (v : Byte) : (s.setSp v).y = s.y := rfl
@[simp] theorem State.setSp_sp (v : Byte) : (s.setSp v).sp = v := rfl
@[simp] theorem State.setSp_pc (v : Byte) : (s.setSp v).pc = s.pc := rfl
@[simp] theorem State.setSp_p (v : Byte) : (s.setSp v).p = s.p := rfl
@[simp] theorem State.setSp_latch (v : Byte) : (s.setSp v).latch = s.latch := rfl
@[simp] theorem State.setSp_ram (v : Byte) : (s.setSp v).ram = s.ram := rfl
@[simp] theorem State.setSp_cart (v : Byte) : (s.setSp v).cart = s.cart := rfl
@[simp] theorem State.setSp_run (v : Byte) : (s.setSp v).run = s.run := rfl
@[simp] theorem State.setSp_trace (v : Byte) : (s.setSp v).trace = s.trace := rfl
@[simp] theorem State.setSp_diagnostics (v : Byte) : (s.setSp v).diagnostics = s.diagnostics := rfl

@[simp] theorem State.setPc_a (v : Addr) : (s.setPc v).a = s.a := rfl
@[simp] theorem State.setPc_x (v : Addr) : (s.setPc v).x = s.x := rfl
@[simp] theorem State.setPc_y (v : Addr) : (s.setPc v).y = s.y := rfl
@[simp] theorem State.setPc_sp (v : Addr) : (s.setPc v).sp = s.sp := rfl
@[simp] theorem State.setPc_pc (v : Addr) : (s.setPc v).pc = v := rfl
@[simp] theorem State.setPc_p (v : Addr) : (s.setPc v).p = s.p := rfl
@[simp] theorem State.setPc_latch (v : Addr) : (s.setPc v).latch = s.latch := rfl
@[simp] theorem State.setPc_ram (v : Addr) : (s.setPc v).ram = s.ram := rfl
@[simp] theorem State.setPc_cart (v : Addr) : (s.setPc v).cart = s.cart := rfl
@[simp] theorem State.setPc_run (v : Addr) : (s.setPc v).run = s.run := rfl
@[simp] theorem State.setPc_trace (v : Addr) : (s.setPc v).trace = s.trace := rfl
@[simp] theorem State.setPc_diagnostics (v : Addr) : (s.setPc v).diagnostics = s.diagnostics := rfl

@[simp] theorem State.setP_a (v : Byte) : (s.setP v).a = s.a := rfl
@[simp] theorem State.setP_x (v : Byte) : (s.setP v).x = s.x := rfl
@[simp] theorem State.setP_y (v : Byte) : (s.setP v).y = s.y := rfl
@[simp] theorem State.setP_sp (v : Byte) : (s.setP v).sp = s.sp := rfl
@[simp] theorem State.setP_pc (v : Byte) : (s.setP v).pc = s.pc := rfl
@[simp] theorem State.setP_p (v : Byte) : (s.setP v).p = v := rfl
@[simp] theorem State.setP_latch (v : Byte) : (s.setP v).latch = s.latch := rfl
@[simp] theorem State.setP_ram (v : Byte) : (s.setP v).ram = s.ram := rfl
@[simp] theorem State.setP_cart (v : Byte) : (s.setP v).cart = s.cart := rfl
@[simp] theorem State.setP_run (v : Byte) : (s.setP v).run = s.run := rfl
@[simp] theorem State.setP_trace (v : Byte) : (s.setP v).trace = s.trace := rfl
@[simp] theorem State.setP_diagnostics (v : Byte) : (s.setP v).diagnostics = s.diagnostics := rfl

@[simp] theorem State.setLatch_a (v : Byte) : (s.setLatch v).a = s.a := rfl
@[simp] theorem State.setLatch_x (v : Byte) : (s.setLatch v).x = s.x := rfl
@[simp] theorem State.setLatch_y (v : Byte) : (s.setLatch v).y = s.y := rfl
@[simp] theorem State.setLatch_sp (v : Byte) : (s.setLatch v).sp = s.sp := rfl
@[simp] theorem State.setLatch_pc (v : Byte) : (s.setLatch v).pc = s.pc := rfl
@[simp] theorem State.setLatch_p (v : Byte) : (s.setLatch v).p = s.p := rfl
@[simp] theorem State.setLatch_latch (v : Byte) : (s.setLatch v).latch = v := rfl
@[simp] theorem State.setLatch_ram (v : Byte) : (s.setLatch v).ram = s.ram := rfl
@[simp] theorem State.setLatch_cart (v : Byte) : (s.setLatch v).cart = s.cart := rfl
@[simp] theorem State.setLatch_run (v : Byte) : (s.setLatch v).run = s.run := rfl
@[simp] theorem State.setLatch_trace (v : Byte) : (s.setLatch v).trace = s.trace := rfl
@[simp] theorem State.setLatch_diagnostics (v : Byte) : (s.setLatch v).diagnostics = s.diagnostics := rfl

@[simp] theorem State.setRam_a (v : Memory) : (s.setRam v).a = s.a := rfl
@[simp] theorem State.setRam_x (v : Memory) : (s.setRam v).x = s.x := rfl
@[simp] theorem State.setRam_y (v : Memory) : (s.setRam v).y = s.y := rfl
@[simp] theorem State.setRam_sp (v : Memory) : (s.setRam v).sp = s.sp := rfl
@[simp] theorem State.setRam_pc (v : Memory) : (s.setRam v).pc = s.pc := rfl
@[simp] theorem State.setRam_p (v : Memory) : (s.setRam v).p = s.p := rfl
@[simp] theorem State.setRam_latch (v : Memory) : (s.setRam v).latch = s.latch := rfl
@[simp] theorem State.setRam_ram (v : Memory) : (s.setRam v).ram = v := rfl
@[simp] theorem State.setRam_cart (v : Memory) : (s.setRam v).cart = s.cart := rfl
@[simp] theorem State.setRam_run (v : Memory) : (s.setRam v).run = s.run := rfl
@[simp] theorem State.setRam_trace (v : Memory) : (s.setRam v).trace = s.trace := rfl
@[simp] theorem State.setRam_diagnostics (v : Memory) : (s.setRam v).diagnostics = s.diagnostics := rfl

@[simp] theorem State.setCart_a (v : Cartridge) : (s.setCart v).a = s.a := rfl
@[simp] theorem State.setCart_x (v : Cartridge) : (s.setCart v).x = s.x := rfl
@[simp] theorem State.setCart_y (v : Cartridge) : (s.setCart v).y = s.y := rfl
@[simp] theorem State.setCart_sp (v : Cartridge) : (s.setCart v).sp = s.sp := rfl
@[simp] theorem State.setCart_pc (v : Cartridge) : (s.setCart v).pc = s.pc := rfl
@[simp] theorem State.setCart_p (v : Cartridge) : (s.setCart v).p = s.p := rfl
@[simp] theorem State.setCart_latch (v : Cartridge) : (s.setCart v).latch = s.latch := rfl
@[simp] theorem State.setCart_ram (v : Cartridge) : (s.setCart v).ram = s.ram := rfl
@[simp] theorem State.setCart_cart (v : Cartridge) : (s.setCart v).cart = v := rfl
@[simp] theorem State.setCart_run (v : Cartridge) : (s.setCart v).run = s.run := rfl
@[simp] theorem State.setCart_trace (v : Cartridge) : (s.setCart v).trace = s.trace := rfl
@[simp] theorem State.setCart_diagnostics (v : Cartridge) : (s.setCart v).diagnostics = s.diagnostics := rfl

@[simp] theorem State.setRun_a (v : RunState) : (s.setRun v).a = s.a := rfl
@[simp] theorem State.setRun_x (v : RunState) : (s.setRun v).x = s.x := rfl
@[simp] theorem State.setRun_y (v : RunState) : (s.setRun v).y = s.y := rfl
@[simp] theorem State.setRun_sp (v : RunState) : (s.setRun v).sp = s.sp := rfl
@[simp] theorem State.setRun_pc (v : RunState) : (s.setRun v).pc = s.pc := rfl
@[simp] theorem State.setRun_p (v : RunState) : (s.setRun v).p = s.p := rfl
@[simp] theorem State.setRun_latch (v : RunState) : (s.setRun v).latch = s.latch := rfl
@[simp] theorem State.setRun_ram (v : RunState) : (s.setRun v).ram = s.ram := rfl
@[simp] theorem State.setRun_cart (v : RunState) : (s.setRun v).cart = s.cart := rfl
@[simp] theorem State.setRun_run (v : RunState) : (s.setRun v).run = v := rfl
@[simp] theorem State.setRun_trace (v : RunState) : (s.setRun v).trace = s.trace := rfl
@[simp] theorem State.setRun_diagnostics (v : RunState) : (s.setRun v).diagnostics = s.diagnostics := rfl

@[simp] theorem State.record_a (v : BusEvent) : (s.record v).a = s.a := rfl
@[simp] theorem State.record_x (v : BusEvent) : (s.record v).x = s.x := rfl
@[simp] theorem State.record_y (v : BusEvent) : (s.record v).y = s.y := rfl
@[simp] theorem State.record_sp (v : BusEvent) : (s.record v).sp = s.sp := rfl
@[simp] theorem State.record_pc (v : BusEvent) : (s.record v).pc = s.pc := rfl
@[simp] theorem State.record_p (v : BusEvent) : (s.record v).p = s.p := rfl
@[simp] theorem State.record_latch (v : BusEvent) : (s.record v).latch = s.latch := rfl
@[simp] theorem State.record_ram (v : BusEvent) : (s.record v).ram = s.ram := rfl
@[simp] theorem State.record_cart (v : BusEvent) : (s.record v).cart = s.cart := rfl
@[simp] theorem State.record_run (v : BusEvent) : (s.record v).run = s.run := rfl
@[simp] theorem State.record_trace (v : BusEvent) : (s.record v).trace = s.trace ++ [v] := rfl
@[simp] theorem State.record_diagnostics (v : BusEvent) : (s.record v).diagnostics = s.diagnostics := rfl

@[simp] theorem State.emit_a (v : Diagnostic) : (s.emit v).a = s.a := rfl
@[simp] theorem State.emit_x (v : Diagnostic) : (s.emit v).x = s.x := rfl
@[simp] theorem State.emit_y (v : Diagnostic) : (s.emit v).y = s.y := rfl
@[simp] theorem State.emit_sp (v : Diagnostic) : (s.emit v).sp = s.sp := rfl
@[simp] theorem State.emit_pc (v : Diagnostic) : (s.emit v).pc = s.pc := rfl
@[simp] theorem State.emit_p (v : Diagnostic) : (s.emit v).p = s.p := rfl
@[simp] theorem State.emit_latch (v : Diagnostic) : (s.emit v).latch = s.latch := rfl
@[simp] theorem State.emit_ram (v : Diagnostic) : (s.emit v).ram = s.ram := rfl
@[simp] theorem State.emit_cart (v : Diagnostic) : (s.emit v).cart = s.cart := rfl
@[simp] theorem State.emit_run (v : Diagnostic) : (s.emit v).run = s.run := rfl
@[simp] theorem State.emit_trace (v : Diagnostic) : (s.emit v).trace = s.trace := rfl
@[simp] theorem State.emit_diagnostics (v : Diagnostic) : (s.emit v).diagnostics = s.diagnostics ++ [v] := rfl

@[simp] theorem State.observe_a (es : List BusEvent) : (s.observe es).a = s.a := rfl
@[simp] theorem State.observe_x (es : List BusEvent) : (s.observe es).x = s.x := rfl
@[simp] theorem State.observe_y (es : List BusEvent) : (s.observe es).y = s.y := rfl
@[simp] theorem State.observe_sp (es : List BusEvent) : (s.observe es).sp = s.sp := rfl
@[simp] theorem State.observe_pc (es : List BusEvent) : (s.observe es).pc = s.pc := rfl
@[simp] theorem State.observe_p (es : List BusEvent) : (s.observe es).p = s.p := rfl
@[simp] theorem State.observe_latch (es : List BusEvent) :
    (s.observe es).latch = (es.getLast?.map BusEvent.value).getD s.latch := rfl
@[simp] theorem State.observe_ram (es : List BusEvent) : (s.observe es).ram = s.ram := rfl
@[simp] theorem State.observe_cart (es : List BusEvent) : (s.observe es).cart = s.cart := rfl
@[simp] theorem State.observe_run (es : List BusEvent) : (s.observe es).run = s.run := rfl
@[simp] theorem State.observe_trace (es : List BusEvent) :
    (s.observe es).trace = s.trace ++ es := rfl
@[simp] theorem State.observe_diagnostics (es : List BusEvent) :
    (s.observe es).diagnostics = s.diagnostics ++ diagnosticsOf es := rfl

@[simp] theorem State.ran_a (n : Nat) (es : List BusEvent) : (s.ran n es).a = s.a := rfl
@[simp] theorem State.ran_x (n : Nat) (es : List BusEvent) : (s.ran n es).x = s.x := rfl
@[simp] theorem State.ran_y (n : Nat) (es : List BusEvent) : (s.ran n es).y = s.y := rfl
@[simp] theorem State.ran_sp (n : Nat) (es : List BusEvent) : (s.ran n es).sp = s.sp := rfl
@[simp] theorem State.ran_pc (n : Nat) (es : List BusEvent) : (s.ran n es).pc = s.pc + BitVec.ofNat 16 n := rfl
@[simp] theorem State.ran_p (n : Nat) (es : List BusEvent) : (s.ran n es).p = s.p := rfl
@[simp] theorem State.ran_latch (n : Nat) (es : List BusEvent) :
    (s.ran n es).latch = (es.getLast?.map BusEvent.value).getD s.latch := rfl
@[simp] theorem State.ran_ram (n : Nat) (es : List BusEvent) : (s.ran n es).ram = s.ram := rfl
@[simp] theorem State.ran_cart (n : Nat) (es : List BusEvent) : (s.ran n es).cart = s.cart := rfl
@[simp] theorem State.ran_run (n : Nat) (es : List BusEvent) : (s.ran n es).run = s.run := rfl
@[simp] theorem State.ran_trace (n : Nat) (es : List BusEvent) : (s.ran n es).trace = s.trace ++ es := rfl
@[simp] theorem State.ran_diagnostics (n : Nat) (es : List BusEvent) :
    (s.ran n es).diagnostics = s.diagnostics ++ diagnosticsOf es := rfl

@[simp] theorem diagnosticsOf_nil : diagnosticsOf [] = [] := rfl

@[simp] theorem diagnosticsOf_append (es es' : List BusEvent) :
    diagnosticsOf (es ++ es') = diagnosticsOf es ++ diagnosticsOf es' := List.filterMap_append

/-! What memory holds depends on WorkRAM and the cartridge alone. -/

@[simp] theorem State.byteAt_setA (v : Byte) (q : Addr) : (s.setA v).byteAt q = s.byteAt q := rfl
@[simp] theorem State.byteAt_setX (v : Byte) (q : Addr) : (s.setX v).byteAt q = s.byteAt q := rfl
@[simp] theorem State.byteAt_setY (v : Byte) (q : Addr) : (s.setY v).byteAt q = s.byteAt q := rfl
@[simp] theorem State.byteAt_setSp (v : Byte) (q : Addr) : (s.setSp v).byteAt q = s.byteAt q := rfl
@[simp] theorem State.byteAt_setPc (v : Addr) (q : Addr) : (s.setPc v).byteAt q = s.byteAt q := rfl
@[simp] theorem State.byteAt_setP (v : Byte) (q : Addr) : (s.setP v).byteAt q = s.byteAt q := rfl
@[simp] theorem State.byteAt_setLatch (v : Byte) (q : Addr) : (s.setLatch v).byteAt q = s.byteAt q := rfl
@[simp] theorem State.byteAt_setRun (v : RunState) (q : Addr) : (s.setRun v).byteAt q = s.byteAt q := rfl
@[simp] theorem State.byteAt_record (v : BusEvent) (q : Addr) : (s.record v).byteAt q = s.byteAt q := rfl
@[simp] theorem State.byteAt_emit (v : Diagnostic) (q : Addr) : (s.emit v).byteAt q = s.byteAt q := rfl
@[simp] theorem State.byteAt_observe (v : List BusEvent) (q : Addr) : (s.observe v).byteAt q = s.byteAt q := rfl

@[simp] theorem State.readWith_setA (v : Byte) (l : Byte) (q : Addr) :
    (s.setA v).readWith l q = s.readWith l q := rfl
@[simp] theorem State.readWith_setX (v : Byte) (l : Byte) (q : Addr) :
    (s.setX v).readWith l q = s.readWith l q := rfl
@[simp] theorem State.readWith_setY (v : Byte) (l : Byte) (q : Addr) :
    (s.setY v).readWith l q = s.readWith l q := rfl
@[simp] theorem State.readWith_setSp (v : Byte) (l : Byte) (q : Addr) :
    (s.setSp v).readWith l q = s.readWith l q := rfl
@[simp] theorem State.readWith_setPc (v : Addr) (l : Byte) (q : Addr) :
    (s.setPc v).readWith l q = s.readWith l q := rfl
@[simp] theorem State.readWith_setP (v : Byte) (l : Byte) (q : Addr) :
    (s.setP v).readWith l q = s.readWith l q := rfl
@[simp] theorem State.readWith_setLatch (v : Byte) (l : Byte) (q : Addr) :
    (s.setLatch v).readWith l q = s.readWith l q := rfl
@[simp] theorem State.readWith_setRun (v : RunState) (l : Byte) (q : Addr) :
    (s.setRun v).readWith l q = s.readWith l q := rfl
@[simp] theorem State.readWith_observe (es : List BusEvent) (l : Byte) (q : Addr) :
    (s.observe es).readWith l q = s.readWith l q := rfl
@[simp] theorem State.byteAt_ran (n : Nat) (es : List BusEvent) (q : Addr) :
    (s.ran n es).byteAt q = s.byteAt q := rfl
@[simp] theorem State.readWith_ran (n : Nat) (es : List BusEvent) (l : Byte) (q : Addr) :
    (s.ran n es).readWith l q = s.readWith l q := rfl

/-! Transactions leave the other updates as they are. -/

theorem State.observe_setRam (m : Memory) (es : List BusEvent) :
    (s.setRam m).observe es = (s.observe es).setRam m := rfl
theorem State.observe_setSp (v : Byte) (es : List BusEvent) :
    (s.setSp v).observe es = (s.observe es).setSp v := rfl
theorem State.observe_setP (v : Byte) (es : List BusEvent) :
    (s.setP v).observe es = (s.observe es).setP v := rfl
theorem State.observe_setPc (v : Addr) (es : List BusEvent) :
    (s.setPc v).observe es = (s.observe es).setPc v := rfl

end Sys2Proof.Machine
end

