-- ==== Sys2Proof/Laws/Bus.lean ====
section
/-! SUPPORT. What each shared operation does, said once: its answer and the state it leaves, in terms of
`State.observe` and the field updates. Later proofs cite these and do not unfold the operations. -/

namespace Sys2Proof.Machine

theorem observe_nil (s : State) : s.observe [] = s := by
  apply State.ext <;> simp

theorem observe_append (s : State) (es es' : List BusEvent) :
    (s.observe es).observe es' = s.observe (es ++ es') := by
  cases es' using List.reverseRecOn with
  | nil => simp [observe_nil]
  | append_singleton es' e => apply State.ext <;> simp [List.getLast?_append]

/-! ### Which addresses are claimed -/

/-- No device claims exactly `0x2000..=0xBFFF` (20_memory.md R32, R44). -/
theorem byteAt_eq_none_iff (s : State) (q : Addr) :
    s.byteAt q = none ↔ 0x2000 ≤ q.toNat ∧ q.toNat ≤ 0xBFFF := by
  rcases hc : s.cart with ⟨⟨e, l⟩⟩
  simp only [State.byteAt, Cartridge.read, hc, Mapper.read, inCart, workRamRead, inRam, Config.cartBase,
    Config.ramTop]
  by_cases h1 : 0xC000 ≤ q.toNat
  · simp [h1]; omega
  · by_cases h2 : q.toNat ≤ 0x1FFF
    · simp [h1, h2]; omega
    · simp [h1, h2]; omega

/-- A WorkRAM address reads as its physical byte (20_memory.md R33). -/
theorem byteAt_of_ram (s : State) {q : Addr} (h : q.toNat ≤ 0x1FFF) :
    s.byteAt q = some (Memory.read s.ram (q.toNat % 2048)) := by
  rcases hc : s.cart with ⟨⟨e, l⟩⟩
  have h1 : ¬ 0xC000 ≤ q.toNat := by omega
  simp [State.byteAt, Cartridge.read, Mapper.read, inCart, workRamRead, inRam, ramIndex, h, h1]

/-- A cartridge address reads as the last bank's byte (20_memory.md R37). -/
theorem byteAt_of_cart (s : State) {q : Addr} (h : 0xC000 ≤ q.toNat) : s.byteAt q = s.cart.read q := by
  rcases hc : s.cart with ⟨⟨e, l⟩⟩
  simp [State.byteAt, Cartridge.read, hc, Mapper.read, inCart, h]

/-- The cartridge's answer does not depend on anything a run changes. -/
theorem byteAt_eq_or (s : State) (q : Addr) :
    s.byteAt q = (s.cart.read q).or (workRamRead s.ram q) := by
  cases h : s.cart.read q <;> simp [State.byteAt, h]

theorem storeRam_eq (ram : Memory) (q : Addr) (v : Byte) : (workRamWrite ram q v).2 = storeRam ram q v := by
  by_cases h : q.toNat ≤ 0x1FFF <;> simp [workRamWrite, storeRam, inRam, ramIndex, h]

/-- A store keeps WorkRAM in canonical form. -/
theorem storeRam_ok {ram : Memory} (h : Memory.ok Config.ramSize ram) (q : Addr) (v : Byte) :
    Memory.ok Config.ramSize (storeRam ram q v) := by
  unfold storeRam
  split
  · exact Memory.ok_write h (Nat.mod_lt _ (by decide)) v
  · exact h

/-- A store leaves every byte but the one it names, whatever the mirror (20_memory.md R35). -/
theorem byteAt_setRam_storeRam_other (s : State) {q ea : Addr} (h : ¬ sameRamByte ea q) (v : Byte) :
    (s.setRam (storeRam s.ram ea v)).byteAt q = s.byteAt q := by
  rcases Nat.lt_or_ge 0x1FFF q.toNat with hq | hq
  · simp [byteAt_eq_or, workRamRead, inRam, Nat.not_le.2 hq]
  · rw [byteAt_of_ram _ hq, byteAt_of_ram _ hq]
    unfold storeRam
    split
    · next he =>
      have hne : q.toNat % 2048 ≠ ea.toNat % 2048 := fun e => h ⟨he, hq, e.symm⟩
      simp [Memory.read_write_other hne]
    · rfl

/-- A store in WorkRAM is what every mirror of its address reads as (20_memory.md R35). -/
theorem byteAt_setRam_storeRam_same (s : State) {q ea : Addr} (hw : s.ram.wf = true) (h : sameRamByte ea q)
    (v : Byte) : (s.setRam (storeRam s.ram ea v)).byteAt q = some v := by
  obtain ⟨h1, h2, h3⟩ := h
  rw [byteAt_of_ram _ h2]
  simp [storeRam, h1, ← h3, Memory.read_write_same hw]

/-! ### The operations -/

/-- `BusRead` (20_memory.md R40, R42). -/
theorem busRead_eq (q : Addr) (s : State) :
    busRead q s = (s.readWith s.latch q, s.observe [.read q (s.readWith s.latch q)]) := by
  cases h : s.byteAt q with
  | none =>
    have hq := (byteAt_eq_none_iff s q).1 h
    simp only [busRead, h, State.readWith, Option.getD_none, Prod.mk.injEq, true_and]
    apply State.ext <;> simp [State.completeRead, diagnosticsOf, BusEvent.openBus, BusEvent.value, hq]
  | some v =>
    have hq : ¬ (0x2000 ≤ q.toNat ∧ q.toNat ≤ 0xBFFF) := fun c => by
      rw [(byteAt_eq_none_iff s q).2 c] at h; cases h
    simp only [busRead, h, State.readWith, Option.getD_some, Prod.mk.injEq, true_and]
    apply State.ext <;> simp [State.completeRead, diagnosticsOf, BusEvent.openBus, BusEvent.value, hq]

/-- `BusWrite` (20_memory.md R41, R42). -/
theorem busWrite_eq (q : Addr) (v : Byte) (s : State) :
    busWrite q v s = (s.observe [.write q v]).setRam (storeRam s.ram q v) := by
  rcases hc : s.cart with ⟨⟨e, l⟩⟩
  by_cases h : q.toNat ≤ 0x1FFF
  · have hq : ¬ 0x2000 ≤ q.toNat := by omega
    apply State.ext <;>
      simp [busWrite, Cartridge.write, Mapper.write, workRamWrite, inRam, ramIndex, storeRam, h, hq, hc,
        diagnosticsOf, BusEvent.openBus, BusEvent.value]
  · have hq : 0x2000 ≤ q.toNat := by omega
    apply State.ext <;>
      simp [busWrite, Cartridge.write, Mapper.write, workRamWrite, inRam, storeRam, h, hq, hc,
        diagnosticsOf, BusEvent.openBus, BusEvent.value]

/-- `DummyRead` (00_scope.md R7). -/
theorem dummyRead_eq (q : Addr) (s : State) :
    dummyRead q s = s.observe [.read q (s.readWith s.latch q)] := by
  simp [dummyRead, busRead_eq]

/-! ### Accesses in a row -/

@[simp] theorem performAll_nil (s : State) : performAll [] s = s := rfl

@[simp] theorem performAll_cons (a : Access) (as : List Access) (s : State) :
    performAll (a :: as) s = performAll as (a.perform s) := rfl

/-- An access leaves every byte it does not store to. -/
theorem byteAt_perform {a : Access} {q : Addr} (h : ¬ a.storesTo q) (s : State) :
    (a.perform s).byteAt q = s.byteAt q := by
  cases a with
  | read r => simp [Access.perform, busRead_eq]
  | write r v =>
    rw [Access.perform, busWrite_eq]
    exact byteAt_setRam_storeRam_other (s.observe [.write r v]) h v

/-- So do accesses in a row. -/
theorem byteAt_performAll {as : List Access} {q : Addr} (h : ∀ a ∈ as, ¬ a.storesTo q) (s : State) :
    (performAll as s).byteAt q = s.byteAt q := by
  induction as generalizing s with
  | nil => rfl
  | cons a as ih =>
    rw [performAll_cons, ih fun b hb => h b (List.mem_cons_of_mem a hb), byteAt_perform (h a List.mem_cons_self)]

/-- No access stores in the cartridge range (20_memory.md R38). -/
theorem Access.not_storesTo_of_cart {q : Addr} (h : 0xC000 ≤ q.toNat) (a : Access) : ¬ a.storesTo q := by
  cases a with
  | read r => exact id
  | write r v => rintro ⟨-, h', -⟩; omega

/-! ### Fetch and the stack -/

/-- `Fetch` (30_encoding.md R62). -/
theorem fetch_eq (s : State) : fetch s = (s.byte1, (s.observe [.read s.pc s.byte1]).setPc (s.pc + 1)) := by
  simp [fetch, busRead_eq, State.byte1]

/-- `Push` (20_memory.md R50). -/
theorem push_eq (v : Byte) (s : State) :
    push v s = ((s.observe [.write (stackAddr s.sp) v]).setRam (storeRam s.ram (stackAddr s.sp) v)).setSp
      (s.sp - 1) := by
  simp [push, busWrite_eq]

/-- A pull (20_memory.md R51). -/
theorem pull_eq (s : State) :
    pull s = (s.readWith s.latch (stackAddr (s.sp + 1)),
      (s.observe [.read (stackAddr (s.sp + 1)) (s.readWith s.latch (stackAddr (s.sp + 1)))]).setSp (s.sp + 1)) := by
  simp only [pull, busRead_eq, State.setSp_sp, State.readWith_setSp, State.setSp_latch, Prod.mk.injEq, true_and]
  rfl

/-- The stack slot lies in page one (20_memory.md R49). -/
theorem stackAddr_toNat (sp : Byte) : (stackAddr sp).toNat = 0x100 + sp.toNat := by
  have h : ∀ sp : Byte, (stackAddr sp).toNat = 0x100 + sp.toNat := by decide
  exact h sp

end Sys2Proof.Machine
end

