-- ==== Sys2Proof/Laws/Decode.lean ====
section
/-! SUPPORT. The opcode table read in both directions, and operand fields read back. -/

namespace Sys2Proof

/-- The decoder finds every instruction at its own opcode byte. -/
@[simp] theorem decodeOpcode_opcode (i : Instr) : decodeOpcode i.opcode = some i := by
  cases i <;> decide

/-- What the decoder finds has the opcode byte it looked up. -/
theorem opcode_of_decodeOpcode {b : Byte} {i : Instr} (h : decodeOpcode b = some i) : i.opcode = b := by
  simpa using List.find?_some h

/-- The two bytes of an address, joined, are the address. -/
@[simp] theorem joinBytes_high_low (a : Addr) : joinBytes (highByte a) (lowByte a) = a := by
  refine BitVec.eq_of_getLsbD_eq fun i hi => ?_
  simp only [joinBytes, highByte, lowByte, BitVec.getLsbD_append, BitVec.getLsbD_extractLsb']
  by_cases h : i < 8
  · simp [h]
  · have h2 : i - 8 < 8 := by omega
    have h3 : 8 + (i - 8) = i := by omega
    simp [h, h2, h3]

/-- The low byte of joined bytes. -/
@[simp] theorem lowByte_joinBytes (hi lo : Byte) : lowByte (joinBytes hi lo) = lo := by
  refine BitVec.eq_of_getLsbD_eq fun i h => ?_
  simp only [joinBytes, lowByte, BitVec.getLsbD_extractLsb', BitVec.getLsbD_append]
  simp [h]

/-- The high byte of joined bytes. -/
@[simp] theorem highByte_joinBytes (hi lo : Byte) : highByte (joinBytes hi lo) = hi := by
  refine BitVec.eq_of_getLsbD_eq fun i h => ?_
  simp only [joinBytes, highByte, BitVec.getLsbD_extractLsb', BitVec.getLsbD_append]
  simp [h]

/-- Reading back the operand field just written. -/
theorem takeOperand_bytes {o : Operand} {f : Format} (h : o.fits f = true) (rest : List Byte) :
    takeOperand f (o.bytes ++ rest) = some (o, rest) := by
  cases o <;> cases f <;> simp_all [Operand.fits, Operand.bytes, takeOperand]

/-- What an operand field reads as is of its format, and its bytes are those read. -/
theorem takeOperand_some {f : Format} {bs rest : List Byte} {o : Operand}
    (h : takeOperand f bs = some (o, rest)) : o.fits f = true ∧ o.bytes ++ rest = bs := by
  rcases bs with _ | ⟨b, _ | ⟨b', bs⟩⟩ <;> cases f <;> simp [takeOperand] at h <;>
    obtain ⟨rfl, rfl⟩ := h <;> simp [Operand.fits, Operand.bytes]

end Sys2Proof
end

