-- ==== Sys2Proof/Laws/Flags.lean ====
section
/-! SUPPORT. Reading a flag after writing one. -/

namespace Sys2Proof.Machine

theorem Flag.bit_lt (f : Flag) : f.bit < 8 := by cases f <;> decide

theorem Flag.bit_injective {f g : Flag} (h : f.bit = g.bit) : f = g := by
  cases f <;> cases g <;> simp_all [Flag.bit]

/-- A flag just written reads as written. -/
@[simp] theorem getFlag_putFlag_same (f : Flag) (v : Bool) (p : Byte) : getFlag f (putFlag f v p) = v := by
  have := f.bit_lt
  cases v <;> simp [getFlag, putFlag, Flag.mask, this]

/-- Writing one flag leaves every other as it was. -/
theorem getFlag_putFlag_other {f g : Flag} (h : g ≠ f) (v : Bool) (p : Byte) :
    getFlag g (putFlag f v p) = getFlag g p := by
  have hb : f.bit ≠ g.bit := fun e => h (Flag.bit_injective e).symm
  have := g.bit_lt
  cases v <;> simp [getFlag, putFlag, Flag.mask, this, hb.symm]

/-- Two status bytes with the same flags are the same byte. -/
theorem eq_of_getFlag_eq {p q : Byte} (h : ∀ f, getFlag f p = getFlag f q) : p = q := by
  refine BitVec.eq_of_getLsbD_eq fun i hi => ?_
  have := h
  interval_cases i
  · exact h .c
  · exact h .z
  · exact h .i
  · exact h .d
  · exact h .b
  · exact h .u
  · exact h .v
  · exact h .n

/-- The flag law of `SetZN` (10_state.md R18). -/
theorem getFlag_setZN (f : Flag) (v p : Byte) :
    getFlag f (setZN v p) = if f = .z then v == 0 else if f = .n then v.getLsbD 7 else getFlag f p := by
  cases f <;> simp [setZN, getFlag_putFlag_other]

/-- The flag law of BIT (48_logic_compare.md R174). -/
theorem getFlag_bitFlags (f : Flag) (a m p : Byte) :
    getFlag f (bitFlags a m p) = if f = .z then (m &&& a) == 0 else if f = .n then m.getLsbD 7
      else if f = .v then m.getLsbD 6 else getFlag f p := by
  cases f <;> simp [bitFlags, getFlag_putFlag_other]

/-- The compare law (48_logic_compare.md R178). -/
theorem getFlag_compareFlags (f : Flag) (l m p : Byte) :
    getFlag f (compareFlags l m p) = if f = .c then decide (m ≤ l) else if f = .z then l == m
      else if f = .n then l.getLsbD 7 else getFlag f p := by
  cases f <;> simp [compareFlags, getFlag_putFlag_other]

/-- The flags after LSR (49_shifts.md R185). -/
theorem getFlag_lsrByte (f : Flag) (p v : Byte) :
    getFlag f (lsrByte p v).2 = if f = .c then v.getLsbD 0 else if f = .z then (lsrByte p v).1 == 0
      else if f = .n then (lsrByte p v).1.getLsbD 7 else getFlag f p := by
  cases f <;> simp [lsrByte, getFlag_setZN, getFlag_putFlag_other]

/-- The flags after ROR (49_shifts.md R186, R187). -/
theorem getFlag_rorByte (f : Flag) (p v : Byte) :
    getFlag f (rorByte p v).2 = if f = .c then v.getLsbD 0 else if f = .z then (rorByte p v).1 == 0
      else if f = .n then (rorByte p v).1.getLsbD 7 else getFlag f p := by
  cases f <;> simp [rorByte, getFlag_setZN, getFlag_putFlag_other]

end Sys2Proof.Machine
end

