-- ==== Sys2Proof/Laws/Operands.lean ====
section
/-! SUPPORT. What each addressing mode hands over and leaves behind, in the words of Safety.lean. -/

namespace Sys2Proof.Machine

/-- Transactions after which PC is set to a fixed distance are `State.ran`. -/
theorem setPc_observe_eq_ran (s : State) (n : Nat) (es : List BusEvent) :
    (s.observe es).setPc (s.pc + BitVec.ofNat 16 n) = s.ran n es := rfl

theorem ran_zero (s : State) (es : List BusEvent) : s.ran 0 es = s.observe es := by
  apply State.ext <;> simp

/-- Transactions in a row add up, with the bytes they fetch. -/
theorem ran_observe (s : State) (n : Nat) (es es' : List BusEvent) :
    (s.ran n es).observe es' = s.ran n (es ++ es') := by
  cases es' using List.reverseRecOn with
  | nil => simp [observe_nil]
  | append_singleton es' e => apply State.ext <;> simp [List.getLast?_append]

theorem fetch_ran (s : State) : fetch s = (s.byte1, s.ran 1 [.read s.pc s.byte1]) := fetch_eq s

theorem immediate_eq (s : State) : immediate s = (s.byte1, s.ran 1 [.read s.pc s.byte1]) := fetch_eq s

theorem relative_eq (s : State) : relative s = (s.byte1, s.ran 1 [.read s.pc s.byte1]) := fetch_eq s

theorem zeroPage_eq (s : State) : zeroPage s = (s.zpAddr, s.ran 1 [.read s.pc s.byte1]) := by
  simp [zeroPage, fetch_ran, State.zpAddr]

/-- After the first operand byte the next fetch returns the second. -/
theorem byte1_ran (s : State) : (s.ran 1 [.read s.pc s.byte1]).byte1 = s.byte2 := rfl

theorem fetch_two (s : State) :
    fetch (s.ran 1 [.read s.pc s.byte1]) =
      (s.byte2, s.ran 2 [.read s.pc s.byte1, .read (s.pc + 1) s.byte2]) := by
  rw [fetch_eq, byte1_ran, ran_observe]
  simp only [Prod.mk.injEq, true_and]
  apply State.ext <;> simp [BitVec.add_assoc]

theorem absolute_eq (s : State) :
    absolute s = (s.addr16, s.ran 2 [.read s.pc s.byte1, .read (s.pc + 1) s.byte2]) := by
  simp [absolute, fetch_ran s, fetch_two, State.addr16]

theorem zeroPageX_eq (s : State) :
    zeroPageX s = (zext16 (s.byte1 + s.x), s.ran 1 [.read s.pc s.byte1, .read s.zpAddr s.zpValue]) := by
  simp [zeroPageX, fetch_ran, dummyRead_eq, ran_observe, State.zpAddr, State.zpValue, BusEvent.value]

theorem absoluteX_eq (s : State) :
    absoluteX s = (s.addr16 + zext16 s.x,
      s.ran 2 [.read s.pc s.byte1, .read (s.pc + 1) s.byte2, .read s.addr16 s.absValue]) := by
  simp [absoluteX, absolute_eq, dummyRead_eq, ran_observe, State.absValue, BusEvent.value]

theorem indirectY_eq (s : State) {lo hi : Byte} {ea : Addr} (hlo : lo = s.zpValue)
    (hhi : hi = s.readWith lo (zext16 (s.byte1 + 1))) (hea : ea = joinBytes hi lo + zext16 s.y) :
    indirectY s = (ea, s.ran 1 [.read s.pc s.byte1, .read s.zpAddr lo, .read (zext16 (s.byte1 + 1)) hi,
      .read ea (s.readWith hi ea)]) := by
  subst hlo hhi hea
  simp [indirectY, fetch_ran, busRead_eq, dummyRead_eq, ran_observe, State.zpAddr, State.zpValue, BusEvent.value]

theorem implied_eq (s : State) : implied s = s.ran 0 [.read s.pc s.byte1] := by
  rw [ran_zero, implied, dummyRead_eq]
  rfl

theorem zeroPageValue_eq (s : State) :
    zeroPageValue s = (s.zpValue, s.ran 1 [.read s.pc s.byte1, .read s.zpAddr s.zpValue]) := by
  simp [zeroPageValue, zeroPage_eq, busRead_eq, ran_observe, State.zpValue, BusEvent.value]

theorem absoluteValue_eq (s : State) :
    absoluteValue s = (s.absValue,
      s.ran 2 [.read s.pc s.byte1, .read (s.pc + 1) s.byte2, .read s.addr16 s.absValue]) := by
  simp [absoluteValue, absolute_eq, busRead_eq, ran_observe, State.absValue, BusEvent.value]

/-- The read-modify-write of INC, LSR and ROR: two writes, the second the result. -/
theorem modifyZeroPage_eq (op : Byte → Byte → Byte × Byte) (s : State) {v : Byte} (hv : v = s.zpValue) :
    modifyZeroPage op s =
      { s.ran 1 [.read s.pc s.byte1, .read s.zpAddr v, .write s.zpAddr v, .write s.zpAddr (op s.p v).1] with
        ram := storeRam (storeRam s.ram s.zpAddr v) s.zpAddr (op s.p v).1, p := (op s.p v).2 } := by
  subst hv
  simp only [modifyZeroPage, zeroPage_eq, busRead_eq, busWrite_eq, State.ran_latch, State.readWith_ran, ran_observe,
    State.observe_setRam, State.setRam_ram, State.setRam_p, State.ran_p, State.ran_ram, State.zpValue]
  rfl

/-- The stack slot is WorkRAM byte `0x100 + SP` (20_memory.md R49). -/
theorem readWith_stackAddr (s : State) (l sp : Byte) :
    s.readWith l (stackAddr sp) = Memory.read s.ram (0x100 + sp.toNat) := by
  have h := stackAddr_toNat sp
  have h1 : (stackAddr sp).toNat ≤ 0x1FFF := by omega
  have h2 : (stackAddr sp).toNat % 2048 = 0x100 + sp.toNat := by omega
  simp [State.readWith, byteAt_of_ram s h1, h2]

/-- A store at the stack slot is a store at that byte. -/
theorem storeRam_stackAddr (m : Memory) (sp v : Byte) :
    storeRam m (stackAddr sp) v = Memory.write m (0x100 + sp.toNat) v := by
  have h := stackAddr_toNat sp
  have h1 : (stackAddr sp).toNat ≤ 0x1FFF := by omega
  have h2 : (stackAddr sp).toNat % 2048 = 0x100 + sp.toNat := by omega
  simp [storeRam, h1, h2]

end Sys2Proof.Machine
end

