-- ==== Sys2Proof/Laws/PerInstr.lean ====
section
/-! SUPPORT. Statements made of every instruction as syntax, one lemma per constructor. -/

namespace Sys2Proof.Laws.Encoding

/-- The instruction's opcode byte decodes to it (30_encoding.md R63). -/
def Statement (i : Instr) : Prop := decodeOpcode i.opcode = some i

theorem oraZp : Statement .oraZp := decodeOpcode_opcode _
theorem php : Statement .php := decodeOpcode_opcode _
theorem oraImm : Statement .oraImm := decodeOpcode_opcode _
theorem bpl : Statement .bpl := decodeOpcode_opcode _
theorem jsrAbs : Statement .jsrAbs := decodeOpcode_opcode _
theorem bitZp : Statement .bitZp := decodeOpcode_opcode _
theorem plp : Statement .plp := decodeOpcode_opcode _
theorem bitAbs : Statement .bitAbs := decodeOpcode_opcode _
theorem bmi : Statement .bmi := decodeOpcode_opcode _
theorem eorZp : Statement .eorZp := decodeOpcode_opcode _
theorem lsrZp : Statement .lsrZp := decodeOpcode_opcode _
theorem pha : Statement .pha := decodeOpcode_opcode _
theorem eorImm : Statement .eorImm := decodeOpcode_opcode _
theorem jmpAbs : Statement .jmpAbs := decodeOpcode_opcode _
theorem rts : Statement .rts := decodeOpcode_opcode _
theorem rorZp : Statement .rorZp := decodeOpcode_opcode _
theorem pla : Statement .pla := decodeOpcode_opcode _
theorem rorAcc : Statement .rorAcc := decodeOpcode_opcode _
theorem sei : Statement .sei := decodeOpcode_opcode _
theorem styZp : Statement .styZp := decodeOpcode_opcode _
theorem staZp : Statement .staZp := decodeOpcode_opcode _
theorem stxZp : Statement .stxZp := decodeOpcode_opcode _
theorem dey : Statement .dey := decodeOpcode_opcode _
theorem styAbs : Statement .styAbs := decodeOpcode_opcode _
theorem staAbs : Statement .staAbs := decodeOpcode_opcode _
theorem stxAbs : Statement .stxAbs := decodeOpcode_opcode _
theorem bcc : Statement .bcc := decodeOpcode_opcode _
theorem staIndY : Statement .staIndY := decodeOpcode_opcode _
theorem staZpx : Statement .staZpx := decodeOpcode_opcode _
theorem tya : Statement .tya := decodeOpcode_opcode _
theorem txs : Statement .txs := decodeOpcode_opcode _
theorem staAbx : Statement .staAbx := decodeOpcode_opcode _
theorem ldyImm : Statement .ldyImm := decodeOpcode_opcode _
theorem ldxImm : Statement .ldxImm := decodeOpcode_opcode _
theorem ldyZp : Statement .ldyZp := decodeOpcode_opcode _
theorem ldaZp : Statement .ldaZp := decodeOpcode_opcode _
theorem ldxZp : Statement .ldxZp := decodeOpcode_opcode _
theorem tay : Statement .tay := decodeOpcode_opcode _
theorem ldaImm : Statement .ldaImm := decodeOpcode_opcode _
theorem tax : Statement .tax := decodeOpcode_opcode _
theorem ldyAbs : Statement .ldyAbs := decodeOpcode_opcode _
theorem ldaAbs : Statement .ldaAbs := decodeOpcode_opcode _
theorem ldxAbs : Statement .ldxAbs := decodeOpcode_opcode _
theorem tsx : Statement .tsx := decodeOpcode_opcode _
theorem cpyImm : Statement .cpyImm := decodeOpcode_opcode _
theorem iny : Statement .iny := decodeOpcode_opcode _
theorem cmpImm : Statement .cmpImm := decodeOpcode_opcode _
theorem dex : Statement .dex := decodeOpcode_opcode _
theorem bne : Statement .bne := decodeOpcode_opcode _
theorem cld : Statement .cld := decodeOpcode_opcode _
theorem incZp : Statement .incZp := decodeOpcode_opcode _
theorem inx : Statement .inx := decodeOpcode_opcode _
theorem beq : Statement .beq := decodeOpcode_opcode _

end Sys2Proof.Laws.Encoding
end

