-- ==== Sys2Proof/Laws/Replay.lean ====
section
/-! SUPPORT. Running an operation is making bus transactions: each shared operation keeps `BusSteps`, which composes. -/

namespace Sys2Proof.Machine

/-- `t` follows from `s` by the transactions `es` and register writes alone. -/
def BusStepsBy (s t : State) (es : List BusEvent) : Prop :=
  t.trace = s.trace ++ es ∧ t.diagnostics = s.diagnostics ++ diagnosticsOf es ∧ t.cart = s.cart ∧ t.run = s.run ∧
    replay s.cart (s.ram, s.latch) es = some (t.ram, t.latch)

/-- `t` follows from `s` by bus transactions and register writes alone. -/
def BusSteps (s t : State) : Prop := ∃ es, BusStepsBy s t es

theorem replay_append (cart : Cartridge) (m : Memory × Byte) (es es' : List BusEvent) :
    replay cart m (es ++ es') = (replay cart m es).bind (fun n => replay cart n es') := by
  induction es generalizing m with
  | nil => rfl
  | cons e es ih =>
    obtain ⟨ram, latch⟩ := m
    cases e with
    | read q v =>
      simp only [List.cons_append, replay]
      split
      · exact ih _
      · rfl
    | write q v => exact ih _

namespace BusSteps

theorem refl (s : State) : BusSteps s s := ⟨[], by simp [BusStepsBy, replay]⟩

theorem trans {s t u : State} (h : BusSteps s t) (h' : BusSteps t u) : BusSteps s u := by
  obtain ⟨es, h1, h2, h3, h4, h5⟩ := h
  obtain ⟨es', k1, k2, k3, k4, k5⟩ := h'
  refine ⟨es ++ es', ?_, ?_, k3.trans h3, k4.trans h4, ?_⟩
  · rw [k1, h1, List.append_assoc]
  · rw [k2, h2, diagnosticsOf_append, List.append_assoc]
  · rw [replay_append, h5, Option.bind_some, ← h3, k5]

theorem setA {s t : State} (h : BusSteps s t) (v : Byte) : BusSteps s (t.setA v) := h
theorem setX {s t : State} (h : BusSteps s t) (v : Byte) : BusSteps s (t.setX v) := h
theorem setY {s t : State} (h : BusSteps s t) (v : Byte) : BusSteps s (t.setY v) := h
theorem setSp {s t : State} (h : BusSteps s t) (v : Byte) : BusSteps s (t.setSp v) := h
theorem setPc {s t : State} (h : BusSteps s t) (v : Addr) : BusSteps s (t.setPc v) := h
theorem setP {s t : State} (h : BusSteps s t) (v : Byte) : BusSteps s (t.setP v) := h

theorem busRead {s t : State} (h : BusSteps s t) (q : Addr) : BusSteps s (busRead q t).2 := by
  refine h.trans ⟨[.read q (t.readWith t.latch q)], ?_⟩
  rw [busRead_eq]
  simp [BusStepsBy, replay, State.readWith, byteAt_eq_or, BusEvent.value]

theorem busWrite {s t : State} (h : BusSteps s t) (q : Addr) (v : Byte) : BusSteps s (busWrite q v t) := by
  refine h.trans ⟨[.write q v], ?_⟩
  rw [busWrite_eq]
  simp [BusStepsBy, replay, BusEvent.value]

theorem dummyRead {s t : State} (h : BusSteps s t) (q : Addr) : BusSteps s (dummyRead q t) := h.busRead q

theorem fetch {s t : State} (h : BusSteps s t) : BusSteps s (fetch t).2 := (h.busRead t.pc).setPc _

theorem push {s t : State} (h : BusSteps s t) (v : Byte) : BusSteps s (push v t) := (h.busWrite _ v).setSp _

theorem pull {s t : State} (h : BusSteps s t) : BusSteps s (pull t).2 := (h.setSp _).busRead _

theorem implied {s t : State} (h : BusSteps s t) : BusSteps s (implied t) := h.dummyRead _

theorem dummyStackRead {s t : State} (h : BusSteps s t) : BusSteps s (dummyStackRead t) := h.dummyRead _

theorem zeroPage {s t : State} (h : BusSteps s t) : BusSteps s (zeroPage t).2 := h.fetch

theorem absolute {s t : State} (h : BusSteps s t) : BusSteps s (absolute t).2 := h.fetch.fetch

theorem zeroPageX {s t : State} (h : BusSteps s t) : BusSteps s (zeroPageX t).2 := h.fetch.dummyRead _

theorem absoluteX {s t : State} (h : BusSteps s t) : BusSteps s (absoluteX t).2 := h.absolute.dummyRead _

theorem indirectY {s t : State} (h : BusSteps s t) : BusSteps s (indirectY t).2 :=
  ((h.fetch.busRead _).busRead _).dummyRead _

theorem zeroPageValue {s t : State} (h : BusSteps s t) : BusSteps s (zeroPageValue t).2 := h.zeroPage.busRead _

theorem absoluteValue {s t : State} (h : BusSteps s t) : BusSteps s (absoluteValue t).2 := h.absolute.busRead _

theorem modifyZeroPage {s t : State} (h : BusSteps s t) (op : Byte → Byte → Byte × Byte) :
    BusSteps s (modifyZeroPage op t) :=
  (((h.zeroPage.busRead _).busWrite _ _).busWrite _ _).setP _

theorem ifElse {s t u : State} {c : Prop} [Decidable c] (ht : BusSteps s t) (hu : BusSteps s u) :
    BusSteps s (if c then t else u) := by
  by_cases hc : c
  · rwa [if_pos hc]
  · rwa [if_neg hc]

theorem branch {s t : State} (h : BusSteps s t) (taken : Byte → Bool) : BusSteps s (branch taken t) :=
  ifElse (ifElse ((h.fetch.setPc _).dummyRead _) (h.fetch.setPc _)) h.fetch

end BusSteps

/-- What running an instruction can do: it completes, by bus transactions and register writes. -/
theorem exec_busSteps (i : Instr) (s : State) : ∃ t, exec i s = .next t ∧ BusSteps s t := by
  have r := BusSteps.refl s
  cases i
  case php => exact ⟨_, rfl, r.implied.push _⟩
  case pha => exact ⟨_, rfl, r.implied.push _⟩
  case pla => exact ⟨_, rfl, (r.implied.dummyStackRead.pull.setA _).setP _⟩
  case plp => exact ⟨_, rfl, r.implied.dummyStackRead.pull.setP _⟩
  case rts => exact ⟨_, rfl, ((r.implied.dummyStackRead.pull.pull.setPc _).dummyRead _).setPc _⟩
  case jsrAbs => exact ⟨_, rfl, (((r.fetch.dummyStackRead.push _).push _).fetch).setPc _⟩
  case jmpAbs => exact ⟨_, rfl, r.absolute.setPc _⟩
  case staZp => exact ⟨_, rfl, r.zeroPage.busWrite _ _⟩
  case stxZp => exact ⟨_, rfl, r.zeroPage.busWrite _ _⟩
  case styZp => exact ⟨_, rfl, r.zeroPage.busWrite _ _⟩
  case staAbs => exact ⟨_, rfl, r.absolute.busWrite _ _⟩
  case stxAbs => exact ⟨_, rfl, r.absolute.busWrite _ _⟩
  case styAbs => exact ⟨_, rfl, r.absolute.busWrite _ _⟩
  case staZpx => exact ⟨_, rfl, r.zeroPageX.busWrite _ _⟩
  case staAbx => exact ⟨_, rfl, r.absoluteX.busWrite _ _⟩
  case staIndY => exact ⟨_, rfl, r.indirectY.busWrite _ _⟩
  case incZp => exact ⟨_, rfl, r.modifyZeroPage _⟩
  case lsrZp => exact ⟨_, rfl, r.modifyZeroPage _⟩
  case rorZp => exact ⟨_, rfl, r.modifyZeroPage _⟩
  case bne => exact ⟨_, rfl, r.branch _⟩
  case beq => exact ⟨_, rfl, r.branch _⟩
  case bpl => exact ⟨_, rfl, r.branch _⟩
  case bmi => exact ⟨_, rfl, r.branch _⟩
  case bcc => exact ⟨_, rfl, r.branch _⟩
  case ldaImm => exact ⟨_, rfl, (r.fetch.setA _).setP _⟩
  case ldxImm => exact ⟨_, rfl, (r.fetch.setX _).setP _⟩
  case ldyImm => exact ⟨_, rfl, (r.fetch.setY _).setP _⟩
  case ldaZp => exact ⟨_, rfl, (r.zeroPageValue.setA _).setP _⟩
  case ldxZp => exact ⟨_, rfl, (r.zeroPageValue.setX _).setP _⟩
  case ldyZp => exact ⟨_, rfl, (r.zeroPageValue.setY _).setP _⟩
  case ldaAbs => exact ⟨_, rfl, (r.absoluteValue.setA _).setP _⟩
  case ldxAbs => exact ⟨_, rfl, (r.absoluteValue.setX _).setP _⟩
  case ldyAbs => exact ⟨_, rfl, (r.absoluteValue.setY _).setP _⟩
  case tsx => exact ⟨_, rfl, (r.implied.setX _).setP _⟩
  case tax => exact ⟨_, rfl, (r.implied.setX _).setP _⟩
  case tay => exact ⟨_, rfl, (r.implied.setY _).setP _⟩
  case tya => exact ⟨_, rfl, (r.implied.setA _).setP _⟩
  case inx => exact ⟨_, rfl, (r.implied.setX _).setP _⟩
  case dex => exact ⟨_, rfl, (r.implied.setX _).setP _⟩
  case iny => exact ⟨_, rfl, (r.implied.setY _).setP _⟩
  case dey => exact ⟨_, rfl, (r.implied.setY _).setP _⟩
  case rorAcc => exact ⟨_, rfl, (r.implied.setA _).setP _⟩
  case txs => exact ⟨_, rfl, r.implied.setSp _⟩
  case sei => exact ⟨_, rfl, r.implied.setP _⟩
  case cld => exact ⟨_, rfl, r.implied.setP _⟩
  case oraImm => exact ⟨_, rfl, (r.fetch.setA _).setP _⟩
  case eorImm => exact ⟨_, rfl, (r.fetch.setA _).setP _⟩
  case oraZp => exact ⟨_, rfl, (r.zeroPageValue.setA _).setP _⟩
  case eorZp => exact ⟨_, rfl, (r.zeroPageValue.setA _).setP _⟩
  case cmpImm => exact ⟨_, rfl, r.fetch.setP _⟩
  case cpyImm => exact ⟨_, rfl, r.fetch.setP _⟩
  case bitZp => exact ⟨_, rfl, r.zeroPageValue.setP _⟩
  case bitAbs => exact ⟨_, rfl, r.absoluteValue.setP _⟩

end Sys2Proof.Machine
end

