-- ==== Sys2Proof/Tests/Slice0.lean ====
section
/-! SUPPORT. Tests, each one step on a small state, with results from the spec's own vectors (95_test_vectors.md, whose
rows are named) and encodings (30_encoding.md); and witnesses that meet the hypotheses of the obligations. -/

namespace Sys2Proof.Tests

open Sys2Proof Sys2Proof.Machine

/-! ### Well-formedness: an operand of the wrong format is refused -/

theorem test_wf_implied_takes_none : Code.wf ⟨.inx, .imm8 0x01⟩ = false ∧ Code.wf ⟨.inx, .none⟩ = true := by decide
theorem test_wf_accumulator_takes_none : Code.wf ⟨.rorAcc, .zp8 0x01⟩ = false := by decide
theorem test_wf_immediate_takes_imm8 : Code.wf ⟨.ldaImm, .none⟩ = false ∧ Code.wf ⟨.ldaImm, .zp8 0x01⟩ = false := by
  decide
theorem test_wf_zero_page_takes_zp8 : Code.wf ⟨.staZp, .addr16 0x0010⟩ = false := by decide
theorem test_wf_zero_page_x_takes_zp8 : Code.wf ⟨.staZpx, .imm8 0x10⟩ = false := by decide
theorem test_wf_indirect_y_takes_ptr8 : Code.wf ⟨.staIndY, .zp8 0x20⟩ = false := by decide
theorem test_wf_relative_takes_off8 : Code.wf ⟨.bne, .imm8 0xFA⟩ = false := by decide
theorem test_wf_absolute_takes_addr16 : Code.wf ⟨.jmpAbs, .zp8 0x04⟩ = false := by decide
theorem test_wf_absolute_x_takes_addr16 : Code.wf ⟨.staAbx, .off8 0x00⟩ = false := by decide

/-! ### Decoding: every row of R64, its bytes written out from R61 and R64 -/

theorem test_decode_stack :
    decode [0x08] = .ok (⟨.php, .none⟩, []) ∧ decode [0x68] = .ok (⟨.pla, .none⟩, []) ∧
    decode [0x28] = .ok (⟨.plp, .none⟩, []) ∧ decode [0x48] = .ok (⟨.pha, .none⟩, []) := by decide

theorem test_decode_stores :
    decode [0x85, 0x10] = .ok (⟨.staZp, .zp8 0x10⟩, []) ∧
    decode [0x8D, 0x10, 0x08] = .ok (⟨.staAbs, .addr16 0x0810⟩, []) ∧
    decode [0x95, 0xF0] = .ok (⟨.staZpx, .zp8 0xF0⟩, []) ∧
    decode [0x9D, 0xF0, 0xFF] = .ok (⟨.staAbx, .addr16 0xFFF0⟩, []) ∧
    decode [0x91, 0x20] = .ok (⟨.staIndY, .ptr8 0x20⟩, []) ∧
    decode [0x86, 0x40] = .ok (⟨.stxZp, .zp8 0x40⟩, []) ∧
    decode [0x8E, 0x00, 0x02] = .ok (⟨.stxAbs, .addr16 0x0200⟩, []) ∧
    decode [0x84, 0x41] = .ok (⟨.styZp, .zp8 0x41⟩, []) ∧
    decode [0x8C, 0x01, 0x1A] = .ok (⟨.styAbs, .addr16 0x1A01⟩, []) := by decide

theorem test_decode_loads :
    decode [0xA9, 0x42] = .ok (⟨.ldaImm, .imm8 0x42⟩, []) ∧
    decode [0xA5, 0x10] = .ok (⟨.ldaZp, .zp8 0x10⟩, []) ∧
    decode [0xAD, 0x05, 0x0B] = .ok (⟨.ldaAbs, .addr16 0x0B05⟩, []) ∧
    decode [0xA2, 0xFF] = .ok (⟨.ldxImm, .imm8 0xFF⟩, []) ∧
    decode [0xA6, 0x10] = .ok (⟨.ldxZp, .zp8 0x10⟩, []) ∧
    decode [0xAE, 0xFF, 0x1F] = .ok (⟨.ldxAbs, .addr16 0x1FFF⟩, []) ∧
    decode [0xA0, 0x01] = .ok (⟨.ldyImm, .imm8 0x01⟩, []) ∧
    decode [0xA4, 0xFF] = .ok (⟨.ldyZp, .zp8 0xFF⟩, []) ∧
    decode [0xAC, 0xFC, 0xFF] = .ok (⟨.ldyAbs, .addr16 0xFFFC⟩, []) := by decide

theorem test_decode_transfers :
    decode [0xBA] = .ok (⟨.tsx, .none⟩, []) ∧ decode [0xAA] = .ok (⟨.tax, .none⟩, []) ∧
    decode [0xA8] = .ok (⟨.tay, .none⟩, []) ∧ decode [0x98] = .ok (⟨.tya, .none⟩, []) ∧
    decode [0x9A] = .ok (⟨.txs, .none⟩, []) := by decide

theorem test_decode_jumps :
    decode [0x4C, 0x04, 0xC0] = .ok (⟨.jmpAbs, .addr16 0xC004⟩, []) ∧
    decode [0x20, 0x34, 0x12] = .ok (⟨.jsrAbs, .addr16 0x1234⟩, []) ∧
    decode [0x60, 0xFF] = .ok (⟨.rts, .none⟩, [0xFF]) := by decide

theorem test_decode_incdec :
    decode [0xE8] = .ok (⟨.inx, .none⟩, []) ∧ decode [0xC8] = .ok (⟨.iny, .none⟩, []) ∧
    decode [0xCA] = .ok (⟨.dex, .none⟩, []) ∧ decode [0x88] = .ok (⟨.dey, .none⟩, []) ∧
    decode [0xE6, 0x30] = .ok (⟨.incZp, .zp8 0x30⟩, []) := by decide

theorem test_decode_flags :
    decode [0x78] = .ok (⟨.sei, .none⟩, []) ∧ decode [0xD8] = .ok (⟨.cld, .none⟩, []) := by decide

theorem test_decode_branches :
    decode [0xD0, 0xFC] = .ok (⟨.bne, .off8 0xFC⟩, []) ∧ decode [0xF0, 0x05] = .ok (⟨.beq, .off8 0x05⟩, []) ∧
    decode [0x10, 0xFE] = .ok (⟨.bpl, .off8 0xFE⟩, []) ∧ decode [0x30, 0x02] = .ok (⟨.bmi, .off8 0x02⟩, []) ∧
    decode [0x90, 0x10] = .ok (⟨.bcc, .off8 0x10⟩, []) := by decide

theorem test_decode_logic_compare :
    decode [0x09, 0xF0] = .ok (⟨.oraImm, .imm8 0xF0⟩, []) ∧ decode [0x05, 0x10] = .ok (⟨.oraZp, .zp8 0x10⟩, []) ∧
    decode [0x49, 0x8F] = .ok (⟨.eorImm, .imm8 0x8F⟩, []) ∧ decode [0x45, 0x11] = .ok (⟨.eorZp, .zp8 0x11⟩, []) ∧
    decode [0x24, 0x10] = .ok (⟨.bitZp, .zp8 0x10⟩, []) ∧
    decode [0x2C, 0x00, 0x40] = .ok (⟨.bitAbs, .addr16 0x4000⟩, []) ∧
    decode [0xC9, 0x01] = .ok (⟨.cmpImm, .imm8 0x01⟩, []) ∧ decode [0xC0, 0x80] = .ok (⟨.cpyImm, .imm8 0x80⟩, []) := by
  decide

theorem test_decode_shifts :
    decode [0x46, 0x30] = .ok (⟨.lsrZp, .zp8 0x30⟩, []) ∧ decode [0x66, 0x30] = .ok (⟨.rorZp, .zp8 0x30⟩, []) ∧
    decode [0x6A] = .ok (⟨.rorAcc, .none⟩, []) := by decide

/-- L2.11 and R65: bytes outside the table are refused by name. -/
theorem test_decode_unimplemented :
    decode [0xEA] = .error (.unimplementedOpcode 0xEA) ∧ decode [0x00] = .error (.unimplementedOpcode 0x00) ∧
    decode [0x8A] = .error (.unimplementedOpcode 0x8A) ∧ decode [0xB5, 0x10] = .error (.unimplementedOpcode 0xB5) ∧
    decode [0xFF] = .error (.unimplementedOpcode 0xFF) ∧ decode [] = .error .empty ∧
    decode [0x85] = .error (.truncated .staZp) ∧ decode [0x4C, 0x04] = .error (.truncated .jmpAbs) := by decide

/-- 53 rows, no two with the same byte (R64). -/
theorem test_opcode_table_has_53_bytes :
    Instr.all.length = 53 ∧ (Instr.all.map Instr.opcode).Nodup ∧ ∀ i : Instr, i ∈ Instr.all := by
  refine ⟨by decide, by decide, fun i => ?_⟩
  cases i <;> decide

/-! ### One step -/

/-- The state after reset of 95_test_vectors.md's conventions, PC at `pc` and code bytes there. -/
def code (pc : Addr) (bs : List Byte) : State := placeBytes pc bs { State.reset with pc := pc, latch := 0xC0 }

/-- The same with the code at 0xC000 and one byte of memory set. -/
def codeWith (bs : List Byte) (addr : Addr) (v : Byte) : State := placeByte addr v (code 0xC000 bs)

/-- What a step leaves, if it ends in a next state. -/
def after {α : Type} (s : State) (view : State → α) : Option α :=
  match step s with
  | .next t => some (view t)
  | .fault _ => none
  | .refused _ => none

/-- The transactions of the step: the trace after the two vector reads. -/
def newTrace (t : State) : List BusEvent := t.trace.drop 2

/-- L2.1 row 1. -/
theorem test_php : after (code 0xC000 [0x08]) (fun t => (newTrace t, t.sp, t.byteAt 0x01FC, t.latch)) =
    some ([.read 0xC000 0x08, .read 0xC001 0x00, .write 0x01FC 0x24], 0xFB, some 0x24, 0x24) := by decide

/-- L2.1 row 2: SP wraps. -/
theorem test_php_wraps : after { code 0xC000 [0x08] with p := 0xFF, sp := 0x00 }
    (fun t => (t.sp, t.byteAt 0x0100, t.p)) = some (0xFF, some 0xFF, 0xFF) := by decide

/-- L2.1 row 3: a push sets no flag. -/
theorem test_pha : after (code 0xC000 [0x48]) (fun t => (t.sp, t.byteAt 0x01FC, t.p, t.pc)) =
    some (0xFB, some 0x00, 0x24, 0xC001) := by decide

/-- L2.1 row 4. -/
theorem test_pla : after { code 0xC000 [0x68] with sp := 0xFB, a := 0x11, p := 0xA4 }
    (fun t => (newTrace t, t.a, t.sp, t.p)) =
    some ([.read 0xC000 0x68, .read 0xC001 0x00, .read 0x01FB 0x00, .read 0x01FC 0x00], 0x00, 0xFC, 0x26) := by decide

/-- L2.1 row 5: SP wraps, and the dummy read is at the old SP's slot. -/
theorem test_pla_wraps : after { codeWith [0x68] 0x0100 0x80 with sp := 0xFF }
    (fun t => ((newTrace t).drop 2, t.a, t.sp, t.p)) =
    some ([.read 0x01FF 0x00, .read 0x0100 0x80], 0x80, 0x00, 0xA4) := by decide

/-- L2.1 row 6: bit 5 can be cleared. -/
theorem test_plp_clears : after { code 0xC000 [0x28] with sp := 0xFB } (fun t => (t.p, t.sp)) =
    some (0x00, 0xFC) := by decide

/-- L2.1 row 7. -/
theorem test_plp_sets : after { codeWith [0x28] 0x01FC 0xFF with sp := 0xFB } (fun t => (t.p, t.a)) =
    some (0xFF, 0x00) := by decide

/-- L2.2 row 1. -/
theorem test_sta_zp : after { code 0xC000 [0x85, 0x10] with a := 0x42 }
    (fun t => (newTrace t, t.byteAt 0x0010, t.p, t.pc)) =
    some ([.read 0xC000 0x85, .read 0xC001 0x10, .write 0x0010 0x42], some 0x42, 0x24, 0xC002) := by decide

/-- L2.2 row 2: a mirror. -/
theorem test_sta_abs : after { code 0xC000 [0x8D, 0x10, 0x08] with a := 0x42 } (fun t => (t.byteAt 0x0010, t.diagnostics)) =
    some (some 0x42, []) := by decide

/-- L2.2 row 4: the cartridge is read only. -/
theorem test_sta_abs_rom : after { code 0xC000 [0x8D, 0x00, 0xC0] with a := 0x55 }
    (fun t => (t.byteAt 0xC000, t.latch, t.diagnostics)) = some (some 0x8D, 0x55, [.openWrite 0xC000]) := by decide

/-- L2.2 row 5: wraps in page zero. -/
theorem test_sta_zpx : after { code 0xC000 [0x95, 0xF0] with a := 0x55, x := 0x20 }
    (fun t => ((newTrace t).drop 2, t.byteAt 0x0010, t.byteAt 0x0110)) =
    some ([.read 0x00F0 0x00, .write 0x0010 0x55], some 0x55, some 0x00) := by decide

/-- L2.2 row 7: wraps at 16 bits. -/
theorem test_sta_abx_wraps : after { code 0xC000 [0x9D, 0xF0, 0xFF] with a := 0x66, x := 0x20 }
    (fun t => ((newTrace t).drop 3, t.byteAt 0x0010)) =
    some ([.read 0xFFF0 0x00, .write 0x0010 0x66], some 0x66) := by decide

/-- L2.2 row 8: both accesses in open bus. -/
theorem test_sta_abx_open_bus : after { code 0xC000 [0x9D, 0xF0, 0x3F] with a := 0x66, x := 0x01 }
    (fun t => ((newTrace t).drop 3, t.latch, t.diagnostics)) =
    some ([.read 0x3FF0 0x3F, .write 0x3FF1 0x66], 0x66, [.openRead 0x3FF0, .openWrite 0x3FF1]) := by decide

/-- L2.2 row 9: the pointer wraps in page zero, and the store is seen through a mirror. -/
theorem test_sta_indy : after { placeByte 0x0000 0x07 (codeWith [0x91, 0xFF] 0x00FF 0xFF) with a := 0x99, y := 0x02 }
    (fun t => ((newTrace t).drop 1, t.byteAt 0x0001)) =
    some ([.read 0xC001 0xFF, .read 0x00FF 0xFF, .read 0x0000 0x07, .read 0x0801 0x00, .write 0x0801 0x99],
      some 0x99) := by decide

/-- L2.2 row 11. -/
theorem test_stx_zp : after { code 0xC000 [0x86, 0x40] with x := 0x07 } (fun t => (t.byteAt 0x0040, t.x)) =
    some (some 0x07, 0x07) := by decide

/-- L2.2 row 12. -/
theorem test_stx_abs : after { code 0xC000 [0x8E, 0x00, 0x02] with x := 0x07 } (fun t => (t.byteAt 0x0200, t.pc)) =
    some (some 0x07, 0xC003) := by decide

/-- L2.2 row 13. -/
theorem test_sty_zp : after { code 0xC000 [0x84, 0x41] with y := 0x09 } (fun t => (t.byteAt 0x0041, t.p)) =
    some (some 0x09, 0x24) := by decide

/-- L2.2 row 14. -/
theorem test_sty_abs : after { code 0xC000 [0x8C, 0x01, 0x1A] with y := 0x09 } (fun t => t.byteAt 0x0201) =
    some (some 0x09) := by decide

/-- L2.3 row 1. -/
theorem test_lda_imm_zero : after { code 0xC000 [0xA9, 0x00] with a := 0x11, p := 0xA4 } (fun t => (t.a, t.p)) =
    some (0x00, 0x26) := by decide

/-- L2.3 row 2. -/
theorem test_lda_imm_negative : after { code 0xC000 [0xA9, 0x80] with p := 0x26 } (fun t => (t.a, t.p)) =
    some (0x80, 0xA4) := by decide

/-- L2.3 row 3. -/
theorem test_lda_zp : after (codeWith [0xA5, 0x10] 0x0010 0x7F) (fun t => (t.a, t.p)) = some (0x7F, 0x24) := by decide

/-- L2.3 row 5: a mirror. -/
theorem test_lda_abs : after (codeWith [0xAD, 0x05, 0x0B] 0x0305 0x81) (fun t => (t.a, t.p)) =
    some (0x81, 0xA4) := by decide

/-- L1.10: open bus gives the high operand byte. -/
theorem test_lda_abs_open_bus : after (code 0xC000 [0xAD, 0x00, 0x40]) (fun t => (t.a, t.p, t.diagnostics)) =
    some (0x40, 0x24, [.openRead 0x4000]) := by decide

/-- L2.3 row 7. -/
theorem test_ldx_imm : after (code 0xC000 [0xA2, 0xFF]) (fun t => (t.x, t.a, t.p)) = some (0xFF, 0x00, 0xA4) := by decide

/-- L2.3 row 8. -/
theorem test_ldx_zp : after { code 0xC000 [0xA6, 0x10] with x := 0x55 } (fun t => (t.x, t.p)) =
    some (0x00, 0x26) := by decide

/-- L2.3 row 9. -/
theorem test_ldx_abs : after (codeWith [0xAE, 0xFF, 0x1F] 0x07FF 0x01) (fun t => (t.x, t.pc)) =
    some (0x01, 0xC003) := by decide

/-- L2.3 row 10. -/
theorem test_ldy_imm : after (code 0xC000 [0xA0, 0x01]) (fun t => (t.y, t.p)) = some (0x01, 0x24) := by decide

/-- L2.3 row 11. -/
theorem test_ldy_zp : after (codeWith [0xA4, 0xFF] 0x00FF 0x80) (fun t => (t.y, t.p)) = some (0x80, 0xA4) := by decide

/-- L2.3 row 12. -/
theorem test_ldy_abs : after { code 0xC000 [0xAC, 0xFC, 0xFF] with y := 0x55 } (fun t => (t.y, t.p, t.latch)) =
    some (0x00, 0x26, 0x00) := by decide

/-- L2.4 row 1. -/
theorem test_tsx : after (code 0xC000 [0xBA]) (fun t => (t.x, t.sp, t.p, t.pc)) =
    some (0xFC, 0xFC, 0xA4, 0xC001) := by decide

/-- L2.4 row 3. -/
theorem test_tax : after { code 0xC000 [0xAA] with x := 0x55 } (fun t => (t.x, t.p)) = some (0x00, 0x26) := by decide

/-- L2.4 row 4. -/
theorem test_tay : after { code 0xC000 [0xA8] with a := 0x80 } (fun t => (t.y, t.p)) = some (0x80, 0xA4) := by decide

/-- L2.4 row 5. -/
theorem test_tya : after { code 0xC000 [0x98] with y := 0x7F, p := 0x26 } (fun t => (t.a, t.p)) =
    some (0x7F, 0x24) := by decide

/-- L2.4 row 6: no flag. -/
theorem test_txs : after (code 0xC000 [0x9A]) (fun t => (t.sp, t.p)) = some (0x00, 0x24) := by decide

/-- L2.5 row 1. -/
theorem test_jmp : after (code 0xC000 [0x4C, 0x00, 0x02]) (fun t => (newTrace t, t.pc)) =
    some ([.read 0xC000 0x4C, .read 0xC001 0x00, .read 0xC002 0x02], 0x0200) := by decide

/-- L2.5 row 2, the vector for 90_conflicts.md C1. -/
theorem test_jsr : after { code 0xC0FE [0x20, 0x34, 0x12] with sp := 0x00 } (fun t => (newTrace t, t.pc, t.sp)) =
    some ([.read 0xC0FE 0x20, .read 0xC0FF 0x34, .read 0x0100 0x00, .write 0x0100 0xC1, .write 0x01FF 0x00,
      .read 0xC100 0x12], 0x1234, 0xFE) := by decide

/-- R131, R55: a JSR at 0x01FA in the stack page with SP = 0xFC overwrites its high operand byte (at 0x01FC, by the
high byte 0x01 of its third byte's address) before fetching it. -/
theorem test_jsr_self_modifying : after { code 0x01FA [0x20, 0x34, 0x12] with sp := 0xFC } (fun t => (t.pc, t.sp)) =
    some (0x0134, 0xFA) := by decide

/-- L2.5 row 3. -/
theorem test_rts : after { placeByte 0x0100 0xC1 (code 0xC00F [0x60]) with sp := 0xFE }
    (fun t => (newTrace t, t.pc, t.sp)) =
    some ([.read 0xC00F 0x60, .read 0xC010 0x00, .read 0x01FE 0x00, .read 0x01FF 0x00, .read 0x0100 0xC1,
      .read 0xC100 0x00], 0xC101, 0x00) := by decide

/-- L2.5 row 4: the pulled address wraps. -/
theorem test_rts_wraps : after { placeByte 0x0112 0xFF (codeWith [0x60] 0x0111 0xFF) with sp := 0x10 }
    (fun t => (t.pc, t.sp)) = some (0x0000, 0x12) := by decide

/-- L2.6 row 1: C kept. -/
theorem test_inx : after { code 0xC000 [0xE8] with x := 0xFF, p := 0x25 } (fun t => (t.x, t.p)) =
    some (0x00, 0x27) := by decide

/-- L2.6 row 3. -/
theorem test_iny : after { code 0xC000 [0xC8] with y := 0xFF } (fun t => (t.y, t.p)) = some (0x00, 0x26) := by decide

/-- L2.6 row 4. -/
theorem test_dex : after { code 0xC000 [0xCA] with p := 0x25 } (fun t => (t.x, t.p)) = some (0xFF, 0xA5) := by decide

/-- L2.6 row 6. -/
theorem test_dey : after { code 0xC000 [0x88] with y := 0x80 } (fun t => (t.y, t.p)) = some (0x7F, 0x24) := by decide

/-- L2.6 row 7. -/
theorem test_inc : after (codeWith [0xE6, 0x30] 0x0030 0xFF) (fun t => (newTrace t, t.byteAt 0x0030, t.p)) =
    some ([.read 0xC000 0xE6, .read 0xC001 0x30, .read 0x0030 0xFF, .write 0x0030 0xFF, .write 0x0030 0x00],
      some 0x00, 0x26) := by decide

/-- L2.7 row 1. -/
theorem test_sei : after { code 0xC000 [0x78] with p := 0x20 } (fun t => t.p) = some 0x24 := by decide

/-- L2.7 row 3. -/
theorem test_cld : after { code 0xC000 [0xD8] with p := 0x2C } (fun t => t.p) = some 0x24 := by decide

/-- L1.6, crossing, negative. -/
theorem test_bne_crosses : after (code 0xC100 [0xD0, 0xFC]) (fun t => (newTrace t, t.pc)) =
    some ([.read 0xC100 0xD0, .read 0xC101 0xFC, .read 0xC0FE 0x00], 0xC0FE) := by decide

/-- L2.8 row 8: the extra read is in open bus. -/
theorem test_bne_into_open_bus : after (code 0xC07D [0xD0, 0x80]) (fun t => ((newTrace t).drop 2, t.pc)) =
    some ([.read 0xBFFF 0x80], 0xBFFF) := by decide

/-- L2.8 row 1: taken in the page, no extra read. -/
theorem test_beq : after { code 0xC010 [0xF0, 0x05] with p := 0x26 } (fun t => (newTrace t, t.pc)) =
    some ([.read 0xC010 0xF0, .read 0xC011 0x05], 0xC017) := by decide

/-- L2.8 row 10: PC wraps while fetching, and the wrap counts as a crossing. -/
theorem test_beq_wraps : after { code 0xFFFF [0xF0, 0xFD] with p := 0x26 } (fun t => (newTrace t, t.pc)) =
    some ([.read 0xFFFF 0xF0, .read 0x0000 0xFD, .read 0xFFFE 0x00], 0xFFFE) := by decide

/-- L2.8 row 3. -/
theorem test_bpl : after (code 0xC010 [0x10, 0xFE]) (fun t => t.pc) = some 0xC010 := by decide

/-- L2.8 row 4: a positive crossing. -/
theorem test_bmi : after { code 0xC0FD [0x30, 0x02] with p := 0xA4 } (fun t => ((newTrace t).drop 2, t.pc)) =
    some ([.read 0xC101 0x00], 0xC101) := by decide

/-- L2.8 row 5: not taken. -/
theorem test_bcc_not_taken : after { code 0xC020 [0x90, 0x10] with p := 0x25 } (fun t => (newTrace t, t.pc)) =
    some ([.read 0xC020 0x90, .read 0xC021 0x10], 0xC022) := by decide

/-- L2.8 row 6. -/
theorem test_bcc_taken : after (code 0xC07F [0x90, 0x7F]) (fun t => t.pc) = some 0xC100 := by decide

/-- L2.9 row 2. -/
theorem test_ora_imm : after { code 0xC000 [0x09, 0xF0] with a := 0x0F } (fun t => (t.a, t.p)) =
    some (0xFF, 0xA4) := by decide

/-- L2.9 row 3. -/
theorem test_ora_zp : after { codeWith [0x05, 0x10] 0x0010 0x80 with a := 0x40 } (fun t => (t.a, t.p)) =
    some (0xC0, 0xA4) := by decide

/-- L2.9 row 5. -/
theorem test_eor_imm : after { code 0xC000 [0x49, 0x8F] with a := 0x0F } (fun t => (t.a, t.p)) =
    some (0x80, 0xA4) := by decide

/-- L2.9 row 6. -/
theorem test_eor_zp : after { codeWith [0x45, 0x11] 0x0011 0xAA with a := 0xAA } (fun t => (t.a, t.p)) =
    some (0x00, 0x26) := by decide

/-- L2.9 row 7. -/
theorem test_bit_zp : after { codeWith [0x24, 0x10] 0x0010 0xC0 with a := 0x01 } (fun t => (t.a, t.p)) =
    some (0x01, 0xE6) := by decide

/-- L2.9 row 10. -/
theorem test_bit_abs : after { code 0xC000 [0x2C, 0x00, 0x40] with a := 0x81, p := 0xA4 } (fun t => (t.a, t.p)) =
    some (0x81, 0x66) := by decide

/-- L1.5, the source's compare quirk. -/
theorem test_cmp : after { code 0xC000 [0xC9, 0x01] with p := 0xA7 } (fun t => (t.a, t.p, t.pc)) =
    some (0x00, 0x24, 0xC002) := by decide

/-- L2.9 row 12: N from A. -/
theorem test_cmp_negative : after { code 0xC000 [0xC9, 0x01] with a := 0x80 } (fun t => t.p) = some 0xA5 := by decide

/-- L2.9 row 15. -/
theorem test_cpy : after { code 0xC000 [0xC0, 0x80] with y := 0x80 } (fun t => t.p) = some 0xA7 := by decide

/-- L2.10 row 1. -/
theorem test_lsr : after { codeWith [0x46, 0x30] 0x0030 0x81 with p := 0xA4 }
    (fun t => ((newTrace t).drop 2, t.byteAt 0x0030, t.p)) =
    some ([.read 0x0030 0x81, .write 0x0030 0x81, .write 0x0030 0x40], some 0x40, 0x25) := by decide

/-- L2.10 row 4. -/
theorem test_ror_zp : after { codeWith [0x66, 0x30] 0x0030 0x40 with p := 0x25 } (fun t => (t.byteAt 0x0030, t.p)) =
    some (some 0xA0, 0xA4) := by decide

/-- L2.10 row 7. -/
theorem test_ror_acc : after { code 0xC000 [0x6A] with a := 0x01 } (fun t => (t.a, t.p)) = some (0x00, 0x27) := by decide

/-- L2.10 row 8. -/
theorem test_ror_acc_carry : after { code 0xC000 [0x6A] with a := 0x02, p := 0x25 } (fun t => (t.a, t.p)) =
    some (0x81, 0xA4) := by decide

/-! ### Stops, reset, and the table words -/

/-- The stop state of a step, if it ends in the fatal stop. -/
def stopped (s : State) : Option (Byte × State) :=
  match step s with
  | .fault (.fatalStop opcode t) => some (opcode, t)
  | .next _ => none
  | .refused _ => none

/-- L2.11 row 1: the opcode fetch has happened. -/
theorem test_nop_stops :
    (stopped (code 0xC000 [0xEA])).map (fun r => (r.1, r.2.run, r.2.pc, r.2.latch, newTrace r.2)) =
      some (0xEA, .fault 0xEA, 0xC001, 0xEA, [.read 0xC000 0xEA]) := by decide

/-- L2.11 row 1: nothing else has changed. -/
theorem test_nop_stop_keeps :
    (stopped (code 0xC000 [0xEA])).map (fun r => (r.2.a, r.2.x, r.2.y, r.2.sp, r.2.p)) =
      some (0x00, 0x00, 0x00, 0xFC, 0x24) := by decide

/-- P6 step 5: an opcode fetched from open bus. -/
theorem test_open_bus_opcode_stops :
    (stopped { State.reset with pc := 0x4000, latch := 0x40 }).map (fun r => (r.1, r.2.pc, r.2.diagnostics)) =
    some (0x40, 0x4001, [.openRead 0x4000]) := by decide

/-- L2.12 rows 2 and 3: the reset sequence before any instruction. -/
theorem test_reset_sequence :
    after { placeByte 0xFFFC 0x34 (placeByte 0xFFFD 0x12 State.reset) with
        run := .notRunning, sp := 0xFF, p := 0xFB, trace := [] }
      (fun t => (t.trace, t.sp, t.p, t.pc, t.latch, t.run)) =
    some ([.read 0xFFFC 0x34, .read 0xFFFD 0x12], 0xFC, 0xFF, 0x1234, 0x12, .running) := by decide

/-- opcode_table.json's numbering: the opcode is the low byte of the word, later bytes follow. -/
theorem test_table_words :
    decodeTableWord 16 0x42A9 = some .ldaImm ∧ decodeTableWord 24 0xC0044C = some .jmpAbs ∧
    decodeTableWord 8 0x6A = some .rorAcc ∧ decodeTableWord 8 0xEA = none := by decide

/-- `withFetchWord` after reset: the very next step fetches and runs the word. -/
theorem test_with_fetch_word :
    after (State.reset.withFetchWord 16 0x42A9) (fun t => (t.a, t.pc)) = some (0x42, 0x0002) ∧
    after ({ State.reset with pc := 0x1FFF }.withFetchWord 24 0x12344C) (fun t => (t.pc, newTrace t)) =
      some (0x1234, [.read 0xC000 0x4C, .read 0xC001 0x34, .read 0xC002 0x12]) := by decide

/-! ### Witnesses: for each obligation with hypotheses, operands and a state that meet them -/

/-- EncodeThenDecodeReturnsTheInstruction -/
theorem witness_encode : Code.wf ⟨.jmpAbs, .addr16 0xC004⟩ = true ∧ Code.wf ⟨.php, .none⟩ = true := by decide

/-- DecodedBytesAreTheEncoding -/
theorem witness_decode : decode [0x9D, 0x00, 0x03, 0xEA] = .ok (⟨.staAbx, .addr16 0x0300⟩, [0xEA]) := by decide

/-- BusReadFollowsTheArbiter, one address for each clause -/
theorem witness_bus_read :
    State.reset.cart.read 0xC000 = some 0x00 ∧
    (State.reset.cart.read 0x1FFF = none ∧ workRamRead State.reset.ram 0x1FFF = some 0x00) ∧
    (State.reset.cart.read 0x2000 = none ∧ workRamRead State.reset.ram 0x2000 = none) ∧
    (State.reset.cart.read 0xBFFF = none ∧ workRamRead State.reset.ram 0xBFFF = none) := by decide

/-- LatchHoldsTheLastByteMoved, the ends of the open-bus range -/
theorem witness_open_bus_range :
    (0x2000 ≤ (0x2000 : Addr).toNat ∧ (0x2000 : Addr).toNat ≤ 0xBFFF) ∧
    (0x2000 ≤ (0xBFFF : Addr).toNat ∧ (0xBFFF : Addr).toNat ≤ 0xBFFF) := by decide

/-- WorkRamRoundTripsAtEveryMirror, both clauses at the top of the window -/
theorem witness_mirror :
    State.reset.ram.wf = true ∧ sameRamByte 0x1FFF 0x07FF ∧ ¬ sameRamByte 0x1FFF 0x0000 ∧
    ¬ sameRamByte 0x1FFF 0x2000 := by
  unfold sameRamByte; decide

/-- FixedBankServesTheLastBankReadOnly -/
theorem witness_no_bank : (Config.Launch.mk [] 0x20 [] 0x00).prgBanks = [] := rfl

/-- StackIsLastInFirstOut, the longest list -/
theorem witness_pushes : State.reset.ram.wf = true ∧ (List.replicate 256 (0x11 : Byte)).length ≤ 256 :=
  ⟨by decide, by rw [List.length_replicate]⟩

/-- PlaAndPlpPull -/
theorem witness_pull :
    (0x00 : Byte) = Memory.read [(0x0100, 0x80)] (0x100 + (0xFF : Byte).toNat) ∧
    (0x80 : Byte) = Memory.read [(0x0100, 0x80)] (0x100 + ((0xFF : Byte) + 1).toNat) := by decide

/-- The state of `bs` at 0xC000 after the opcode fetch, with one byte of memory set. -/
def fetched (bs : List Byte) (addr : Addr) (v : Byte) : State := { codeWith bs addr v with pc := 0xC001 }

/-- StaIndirectY, the pointer at 0xFF -/
theorem witness_sta_indy :
    let s := { placeByte 0x0000 0x07 (fetched [0x91, 0xFF] 0x00FF 0xFF) with y := 0x02 }
    0xFF = s.zpValue ∧ 0x07 = s.readWith 0xFF (zext16 (s.byte1 + 1)) ∧
      (0x0801 : Addr) = joinBytes 0x07 0xFF + zext16 s.y := by decide

/-- ImmediateLoads, ZeroPageLoads, AbsoluteLoads, TransfersCopyRegisters, IndexIncrementsAndDecrements -/
theorem witness_named_states :
    let s := fetched [0xA9, 0x42] 0x0010 0x7F
    (∃ t : State, t = { s.ran 1 [.read s.pc s.byte1] with p := setZN s.byte1 s.p }) ∧
    (∃ t : State, t =
      { s.ran 1 [.read s.pc s.byte1, .read s.zpAddr s.zpValue] with p := setZN s.zpValue s.p }) ∧
    (∃ t : State, t =
      { s.ran 2 [.read s.pc s.byte1, .read (s.pc + 1) s.byte2, .read s.addr16 s.absValue] with
        p := setZN s.absValue s.p }) ∧
    ∃ t : State, t = s.ran 0 [.read s.pc s.byte1] :=
  ⟨⟨_, rfl⟩, ⟨_, rfl⟩, ⟨_, rfl⟩, ⟨_, rfl⟩⟩

/-- OpenBusLoadReturnsTheHighOperandByte, the ends of the range -/
theorem witness_open_bus_load :
    (fetched [0xAD, 0x00, 0x20] 0x0000 0x00).addr16 = 0x2000 ∧
    (fetched [0xAE, 0xFF, 0xBF] 0x0000 0x00).addr16 = 0xBFFF ∧
    (fetched [0xAC, 0xFF, 0xBF] 0x0000 0x00).addr16 = 0xBFFF := by decide

/-- JsrPushesThenFetchesTheHighByte, SP wrapping -/
theorem witness_jsr :
    let s := { fetched [0x20, 0x34, 0x12] 0x0000 0x00 with sp := 0x00 }
    let ram : Memory := [(0x0100, 0xC0), (0x01FF, 0x02)]
    (0xC002 : Addr) = s.pc + 1 ∧ 0x00 = Memory.read s.ram (0x100 + s.sp.toNat) ∧
      ram = Memory.write (Memory.write s.ram (0x100 + s.sp.toNat) (highByte 0xC002))
        (0x100 + (s.sp - 1).toNat) (lowByte 0xC002) ∧
      0x12 = State.readWith { s with ram := ram } (lowByte 0xC002) 0xC002 := by decide

/-- RtsPullsTheReturnAddress -/
theorem witness_rts :
    let s := { fetched [0x60] 0x0100 0xC1 with sp := 0xFE }
    0x00 = Memory.read s.ram (0x100 + s.sp.toNat) ∧ 0x00 = Memory.read s.ram (0x100 + (s.sp + 1).toNat) ∧
      0xC1 = Memory.read s.ram (0x100 + (s.sp + 2).toNat) := by decide

/-- RtsReturnsAfterTheJsr: the subroutine has stored a byte of its own and changed A and PC -/
theorem witness_subroutine :
    let s := fetched [0x20, 0x34, 0x12] 0x01FC 0x77
    s.ram.wf = true ∧ ∃ t u : State, exec .jsrAbs s = .next t ∧ u = { busWrite 0x0010 0x55 t with a := 0x55, pc := 0xD000 } ∧
      u.ram ≠ t.ram ∧ u.sp = t.sp ∧ u.byteAt (stackAddr s.sp) = t.byteAt (stackAddr s.sp) ∧
      u.byteAt (stackAddr (s.sp - 1)) = t.byteAt (stackAddr (s.sp - 1)) :=
  ⟨by decide, _, _, rfl, rfl, by decide, by decide, by decide, by decide⟩

/-- PlpRestoresWhatPhpPushed: other memory, A and P have changed in between -/
theorem witness_between_php_and_plp :
    let s := fetched [0x08] 0x01FC 0x77
    s.ram.wf = true ∧ ∃ t u : State, exec .php s = .next t ∧ u = { busWrite 0x0010 0x55 t with a := 0x55, p := 0xFF } ∧
      u.ram ≠ t.ram ∧ u.sp = t.sp ∧ u.byteAt (stackAddr s.sp) = t.byteAt (stackAddr s.sp) :=
  ⟨by decide, _, _, rfl, rfl, by decide, by decide, by decide⟩

/-- IncRewritesThenIncrements, MemoryShiftsMoveOneBitRight -/
theorem witness_modify :
    let s := { fetched [0x66, 0x30] 0x0030 0x81 with p := 0x25 }
    0x81 = s.zpValue ∧ (0x40 : Byte) = 0x81 >>> 1 ∧
      (0xC0 : Byte) = (if getFlag .c s.p then 0x80 else 0x00) ||| (0x81 >>> 1) := by decide

/-- BranchesFollowTheCommonSequence: not taken; taken in the page; taken to another page -/
theorem witness_branches :
    let cases (s : State) := [(Instr.bne, !getFlag .z s.p), (Instr.beq, getFlag .z s.p), (Instr.bpl, !getFlag .n s.p),
      (Instr.bmi, getFlag .n s.p), (Instr.bcc, !getFlag .c s.p)]
    (Instr.beq, false) ∈ cases (fetched [0xF0, 0x05] 0x0000 0x00) ∧
    ((Instr.bne, true) ∈ cases (fetched [0xD0, 0x05] 0x0000 0x00) ∧
      highByte (fetched [0xD0, 0x05] 0x0000 0x00).branchTarget = highByte 0xC002) ∧
    ((Instr.bcc, true) ∈ cases (fetched [0x90, 0x80] 0x0000 0x00) ∧
      highByte (fetched [0x90, 0x80] 0x0000 0x00).branchTarget ≠ highByte 0xC002) := by decide

/-- OraAndEorCombineWithA -/
theorem witness_logic :
    let s := { fetched [0x05, 0x10] 0x0010 0x80 with a := 0x40 }
    (0x10 : Byte) = s.byte1 ∧ 0x80 = s.zpValue ∧ (∃ i : State, i = s.ran 1 [.read s.pc 0x10]) ∧
      ∃ z : State, z = s.ran 1 [.read s.pc 0x10, .read s.zpAddr 0x80] :=
  ⟨by decide, by decide, ⟨_, rfl⟩, ⟨_, rfl⟩⟩

/-- RorAccumulatorIsANineBitRotation -/
theorem witness_ror : (0x81 : Byte) = (if getFlag .c 0x25 then 0x80 else 0x00) ||| ((0x02 : Byte) >>> 1) := by decide

/-- StepRunsTheDecodedInstruction, FetchesReturnTheDecodedOperand: code in the cartridge, and code in open bus -/
theorem witness_step :
    (let s := code 0xC000 [0x4C, 0x04, 0xC0];
      s.run = .running ∧ 0x4C = s.readWith s.latch s.pc ∧ 0x04 = s.readWith 0x4C (s.pc + 1) ∧
      0xC0 = s.readWith 0x04 (s.pc + 2) ∧ decode [0x4C, 0x04, 0xC0] = .ok (⟨.jmpAbs, .addr16 0xC004⟩, [])) ∧
    (let s := { State.reset with pc := 0x4000, latch := 0x60 };
      s.run = .running ∧ 0x60 = s.readWith s.latch s.pc ∧ 0x60 = s.readWith 0x60 (s.pc + 1) ∧
      0x60 = s.readWith 0x60 (s.pc + 2) ∧ decode [0x60, 0x60, 0x60] = .ok (⟨.rts, .none⟩, [0x60, 0x60])) := by decide

/-- UnimplementedOpcodeStopsTheCore -/
theorem witness_unimplemented :
    let s := code 0xC000 [0xEA]
    s.run = .running ∧ 0xEA = s.readWith s.latch s.pc ∧ ∀ i : Instr, i.opcode ≠ 0xEA :=
  ⟨by decide, by decide, by intro i; cases i <;> decide⟩

/-- NothingElseStopsTheCore -/
theorem witness_running : State.reset.run = .running ∧ (stopped State.reset).isSome = true := by decide

/-- AStoppedCoreStaysStopped -/
theorem witness_stopped : ({ State.reset with run := .fault 0xEA } : State).run = .fault 0xEA := rfl

/-- Parameters of the sizes R5 gives are valid. -/
theorem launch_valid {bank ram : List Byte} (hb : bank.length = 16384) (hr : ram.length = 2048) :
    (Config.Launch.mk [bank, bank] 0xFB ram 0x5A).valid = true := by
  simp [Config.Launch.valid, Config.bankSize, Config.ramSize, hb, hr]

/-- PowerOnStateIsAsSupplied, StateAfterPowerOnReset, ResetHasTheInvariant -/
theorem witness_launch : ∃ bank ram : List Byte, bank = List.replicate 16384 0x22 ∧ ram = List.replicate 2048 0x11 ∧
    (Config.Launch.mk [bank, bank] 0xFB ram 0x5A).valid = true ∧
    (Config.Launch.mk [bank, bank] 0xFB ram 0x5A).prgBanks = [bank] ++ [bank] :=
  ⟨_, _, rfl, rfl, launch_valid List.length_replicate List.length_replicate, rfl⟩

/-- ResetSequenceReadsTheVector, TheFirstStepIsTheResetSequence -/
theorem witness_powered_on :
    let s := { placeByte 0xFFFC 0x34 (placeByte 0xFFFD 0x12 State.reset) with run := .notRunning }
    s.run = .notRunning ∧ 0x34 = s.readWith s.latch 0xFFFC ∧ 0x12 = s.readWith 0x34 0xFFFD := by decide

/-- RegistersChangeOnlyByTheirWriters, FlagsChangeOnlyByTheirWriters, ProgramCounterAdvancesOverTheOperand -/
theorem witness_frames :
    Instr.staZp ∉ writesA ∧ Instr.staZp ∉ writesX ∧ Instr.staZp ∉ writesY ∧ Instr.staZp ∉ writesSp ∧
    Instr.inx ∉ writesFlag .c ∧ Instr.inx ∉ writesFlag .v ∧ Instr.ldaImm ∉ transfersControl := by decide

/-- MemoryChangesOnlyAtTheStoreTargets: the byte after a store's target -/
theorem witness_memory_frame :
    ∀ ea ∈ storeTargets .staZp (fetched [0x85, 0x10] 0x0000 0x00), ¬ sameRamByte ea 0x0011 := by
  have h : storeTargets .staZp (fetched [0x85, 0x10] 0x0000 0x00) = [0x0010] := by decide
  intro ea hea
  rw [h, List.mem_singleton] at hea
  subst hea; unfold sameRamByte; decide

/-- UnusedFlagsHaveNoEffect -/
theorem witness_unused_flags : Instr.ldaImm ≠ .php ∧ (0x24 : Byte) &&& 0xC3 = 0x18 &&& 0xC3 := by decide

/-- StoresAreSeenByLaterFetches: a mirror, with a read of the same byte and stores beside it and in open bus between; a
JSR in the stack page; the bottom of the cartridge -/
theorem witness_coherence :
    State.reset.ram.wf = true ∧ sameRamByte 0x0801 0x0001 ∧
    (∀ a ∈ [Access.read 0x0001, .write 0x0002 0x77, .write 0x4001 0x77], ¬ a.storesTo 0x0001) ∧
    (let s := { code 0x01FA [0x20, 0x34, 0x12] with pc := 0x01FB, sp := 0xFC };
      s.ram.wf = true ∧ sameRamByte (stackAddr s.sp) (s.pc + 1)) ∧
    0xC000 ≤ (0xC000 : Addr).toNat := by
  refine ⟨by decide, by unfold sameRamByte; decide, ?_, by unfold sameRamByte; decide, by decide⟩
  simp [Access.storesTo, sameRamByte]

/-- EveryStepReplaysOnTheBus, StepKeepsTheInvariant: a state in the invariant whose step completes -/
theorem witness_invariant :
    let s := { placeBytes 0xC000 [0xE6, 0x30] State.reset with pc := 0xC000 }
    s.Inv ∧ (after s (fun _ => ())).isSome = true := by
  refine ⟨⟨⟨by decide, by decide⟩, ⟨(by intro b h; cases h), by decide, by decide⟩, by decide, by decide, by decide, by decide⟩,
    by decide⟩

/-- StepKeepsTheWholeTraceReplay: a block just powered on, whose step is the reset sequence; and a later state -/
theorem witness_replay :
    (let s := { State.reset with run := .notRunning, sp := 0xFF, p := 0x20, trace := [] };
      s.ReplaysFrom s ∧ (after s (fun _ => ())).isSome = true) ∧
    (let s₀ := { placeBytes 0xC000 [0xE6, 0x30] State.reset with trace := [] };
      let s := { placeBytes 0xC000 [0xE6, 0x30] State.reset with pc := 0xC000 };
      s.ReplaysFrom s₀ ∧ (after s (fun _ => ())).isSome = true) := by
  unfold State.ReplaysFrom; decide

end Sys2Proof.Tests
end

section
/-! PROOF. The state (10_state.md): what each of the 53 instructions leaves unchanged, and the invariant. -/

namespace Sys2Proof.Machine

/-! ### Flag writes -/

/-- Settles O13: the flag law of `SetZN`, and that of one flag write. -/
theorem setZNWritesZeroAndNegativeOnly : Obligations.SetZNWritesZeroAndNegativeOnly := by
  refine ⟨getFlag_setZN, fun f g b p => ?_⟩
  split
  · next h => rw [h, getFlag_putFlag_same]
  · next h => exact getFlag_putFlag_other h b p

theorem getFlag_setZN_other {g : Flag} (hz : g ≠ .z) (hn : g ≠ .n) (v p : Byte) :
    getFlag g (setZN v p) = getFlag g p := by
  rw [getFlag_setZN, if_neg hz, if_neg hn]

theorem getFlag_bitFlags_other {g : Flag} (hz : g ≠ .z) (hn : g ≠ .n) (hv : g ≠ .v) (a m p : Byte) :
    getFlag g (bitFlags a m p) = getFlag g p := by
  rw [getFlag_bitFlags, if_neg hz, if_neg hn, if_neg hv]

theorem getFlag_compareFlags_other {g : Flag} (hc : g ≠ .c) (hz : g ≠ .z) (hn : g ≠ .n) (l m p : Byte) :
    getFlag g (compareFlags l m p) = getFlag g p := by
  rw [getFlag_compareFlags, if_neg hc, if_neg hz, if_neg hn]

theorem getFlag_lsrByte_other {g : Flag} (hc : g ≠ .c) (hz : g ≠ .z) (hn : g ≠ .n) (p v : Byte) :
    getFlag g (lsrByte p v).2 = getFlag g p := by
  rw [getFlag_lsrByte, if_neg hc, if_neg hz, if_neg hn]

theorem getFlag_rorByte_other {g : Flag} (hc : g ≠ .c) (hz : g ≠ .z) (hn : g ≠ .n) (p v : Byte) :
    getFlag g (rorByte p v).2 = getFlag g p := by
  rw [getFlag_rorByte, if_neg hc, if_neg hz, if_neg hn]

/-! ### What the bus operations leave of SP and P -/

@[simp] theorem busRead_sp (q : Addr) (s : State) : (busRead q s).2.sp = s.sp := by rw [busRead_eq]; rfl

@[simp] theorem implied_sp (s : State) : (implied s).sp = s.sp := busRead_sp _ s

@[simp] theorem fetch_sp (s : State) : (fetch s).2.sp = s.sp := busRead_sp _ s

@[simp] theorem dummyStackRead_sp (s : State) : (dummyStackRead s).sp = s.sp := busRead_sp _ s

@[simp] theorem push_sp (v : Byte) (s : State) : (push v s).sp = s.sp - 1 := by rw [push_eq]; rfl

@[simp] theorem busWrite_p (q : Addr) (v : Byte) (s : State) : (busWrite q v s).p = s.p := by rw [busWrite_eq]; rfl

/-! ### Frames

An observation of the state that ignores each thing an instruction may write is unchanged by the instruction. -/

/-- `f` ignores everything that the instruction, run from `s`, may write: bus transactions as such, PC, the bytes at its
store targets, the registers that list it as a writer, and P where only flags that list it as a writer differ. -/
structure IgnoresWritesOf {α : Type} (i : Instr) (s : State) (f : State → α) : Prop where
  observe : ∀ es t, f (t.observe es) = f t := by intros; rfl
  setPc : ∀ v t, f (t.setPc v) = f t := by intros; rfl
  store : ∀ ea ∈ storeTargets i s, ∀ v t, f (t.setRam (storeRam t.ram ea v)) = f t := by intros; rfl
  setA : i ∈ writesA → ∀ v t, f (t.setA v) = f t := by intros; rfl
  setX : i ∈ writesX → ∀ v t, f (t.setX v) = f t := by intros; rfl
  setY : i ∈ writesY → ∀ v t, f (t.setY v) = f t := by intros; rfl
  setSp : i ∈ writesSp → ∀ v t, f (t.setSp v) = f t := by intros; rfl
  setP : ∀ v t, (∀ g, i ∉ writesFlag g → getFlag g v = getFlag g t.p) → f (t.setP v) = f t := by intros; rfl

namespace IgnoresWritesOf

variable {α : Type} {i : Instr} {s t : State} {f : State → α} (h : IgnoresWritesOf i s f) (ht : f t = f s)

include h ht

/-! Each shared operation keeps such an observation. -/

theorem busRead (q : Addr) : f (busRead q t).2 = f s := by
  rw [busRead_eq, h.observe, ht]

theorem busWrite {ea : Addr} (hea : ea ∈ storeTargets i s) (v : Byte) : f (busWrite ea v t) = f s := by
  rw [busWrite_eq, ← State.observe_setRam, h.observe, h.store ea hea, ht]

theorem jump (v : Addr) : f (t.setPc v) = f s := (h.setPc v t).trans ht

theorem fetch : f (fetch t).2 = f s := h.jump (h.busRead ht t.pc) _

theorem implied : f (implied t) = f s := h.busRead ht _

theorem absolute : f (absolute t).2 = f s := h.fetch (h.fetch ht)

theorem zeroPageX : f (zeroPageX t).2 = f s := h.busRead (h.fetch ht) _

theorem absoluteX : f (absoluteX t).2 = f s := h.busRead (h.absolute ht) _

theorem indirectY : f (indirectY t).2 = f s := h.busRead (h.busRead (h.busRead (h.fetch ht) _) _) _

theorem zeroPageValue : f (zeroPageValue t).2 = f s := h.busRead (h.fetch ht) _

theorem absoluteValue : f (absoluteValue t).2 = f s := h.busRead (h.absolute ht) _

theorem dummyStackRead : f (dummyStackRead t) = f s := h.busRead ht _

theorem pull (hi : i ∈ writesSp) : f (pull t).2 = f s := h.busRead ((h.setSp hi _ t).trans ht) _

theorem push (hi : i ∈ writesSp) (hea : stackAddr t.sp ∈ storeTargets i s) (v : Byte) : f (push v t) = f s :=
  (h.setSp hi _ _).trans (h.busWrite ht hea v)

/-- A new P that differs from the old in flags the instruction writes. -/
theorem putP {v : Byte} (hv : ∀ g, (∀ {w}, i ∈ writesFlag w → g ≠ w) → getFlag g v = getFlag g t.p) :
    f (t.setP v) = f s :=
  (h.setP v t fun g hg => hv g fun hw hgw => hg (hgw ▸ hw)).trans ht

theorem putZN (hi : i ∈ setsZN) (v : Byte) : f (t.setP (setZN v t.p)) = f s :=
  h.putP ht fun _ hne => getFlag_setZN_other (hne (List.mem_append_left _ hi)) (hne (List.mem_append_left _ hi)) v t.p

theorem loadA (hi : i ∈ writesA ∧ i ∈ setsZN) (v : Byte) : f (loadA v t) = f s :=
  h.putZN ((h.setA hi.1 v t).trans ht) hi.2 v

theorem loadX (hi : i ∈ writesX ∧ i ∈ setsZN) (v : Byte) : f (loadX v t) = f s :=
  h.putZN ((h.setX hi.1 v t).trans ht) hi.2 v

theorem loadY (hi : i ∈ writesY ∧ i ∈ setsZN) (v : Byte) : f (loadY v t) = f s :=
  h.putZN ((h.setY hi.1 v t).trans ht) hi.2 v

theorem branch (taken : Byte → Bool) : f (branch taken t) = f s := by
  have hoff : f (relative t).2 = f s := h.fetch ht
  simp only [Machine.branch]
  split_ifs
  · exact h.busRead (h.jump hoff _) _
  · exact h.jump hoff _
  · exact hoff

omit ht

/-- A read-modify-write stores at the operand's address alone, and writes P as its operation does. -/
theorem modifyZeroPage (hea : (zeroPage s).1 ∈ storeTargets i s) {op : Byte → Byte → Byte × Byte}
    (hop : ∀ p v g, (∀ {w}, i ∈ writesFlag w → g ≠ w) → getFlag g (op p v).2 = getFlag g p) :
    f (modifyZeroPage op s) = f s := by
  have hread : f (Machine.busRead (zeroPage s).1 (zeroPage s).2).2 = f s := h.zeroPageValue rfl
  simp only [Machine.modifyZeroPage]
  refine h.putP (h.busWrite (h.busWrite hread hea _) hea _) fun g hne => ?_
  simp only [busWrite_p]
  exact hop _ _ g hne

end IgnoresWritesOf

/-- Every instruction keeps what ignores everything the instruction is listed as writing. -/
theorem exec_keeps {α : Type} {i : Instr} {s : State} {f : State → α} (h : IgnoresWritesOf i s f) :
    ∃ t, exec i s = .next t ∧ f t = f s := by
  cases i
  case ldaImm => exact ⟨_, rfl, h.loadA (h.fetch rfl) (by decide) _⟩
  case oraImm => exact ⟨_, rfl, h.loadA (h.fetch rfl) (by decide) _⟩
  case eorImm => exact ⟨_, rfl, h.loadA (h.fetch rfl) (by decide) _⟩
  case ldaZp => exact ⟨_, rfl, h.loadA (h.zeroPageValue rfl) (by decide) _⟩
  case oraZp => exact ⟨_, rfl, h.loadA (h.zeroPageValue rfl) (by decide) _⟩
  case eorZp => exact ⟨_, rfl, h.loadA (h.zeroPageValue rfl) (by decide) _⟩
  case ldaAbs => exact ⟨_, rfl, h.loadA (h.absoluteValue rfl) (by decide) _⟩
  case tya => exact ⟨_, rfl, h.loadA (h.implied rfl) (by decide) _⟩
  case ldxImm => exact ⟨_, rfl, h.loadX (h.fetch rfl) (by decide) _⟩
  case ldxZp => exact ⟨_, rfl, h.loadX (h.zeroPageValue rfl) (by decide) _⟩
  case ldxAbs => exact ⟨_, rfl, h.loadX (h.absoluteValue rfl) (by decide) _⟩
  case tax | tsx | inx | dex => exact ⟨_, rfl, h.loadX (h.implied rfl) (by decide) _⟩
  case ldyImm => exact ⟨_, rfl, h.loadY (h.fetch rfl) (by decide) _⟩
  case ldyZp => exact ⟨_, rfl, h.loadY (h.zeroPageValue rfl) (by decide) _⟩
  case ldyAbs => exact ⟨_, rfl, h.loadY (h.absoluteValue rfl) (by decide) _⟩
  case tay | iny | dey => exact ⟨_, rfl, h.loadY (h.implied rfl) (by decide) _⟩
  case txs => exact ⟨_, rfl, (h.setSp (by decide) _ _).trans (h.implied rfl)⟩
  case staZp | stxZp | styZp => exact ⟨_, rfl, h.busWrite (h.fetch rfl) (List.mem_singleton_self _) _⟩
  case staAbs | stxAbs | styAbs => exact ⟨_, rfl, h.busWrite (h.absolute rfl) (List.mem_singleton_self _) _⟩
  case staZpx => exact ⟨_, rfl, h.busWrite (h.zeroPageX rfl) (List.mem_singleton_self _) _⟩
  case staAbx => exact ⟨_, rfl, h.busWrite (h.absoluteX rfl) (List.mem_singleton_self _) _⟩
  case staIndY => exact ⟨_, rfl, h.busWrite (h.indirectY rfl) (List.mem_singleton_self _) _⟩
  case php | pha => exact ⟨_, rfl, h.push (h.implied rfl) (by decide) (by simp [storeTargets]) _⟩
  case pla => exact ⟨_, rfl, h.loadA (h.pull (h.dummyStackRead (h.implied rfl)) (by decide)) (by decide) _⟩
  case plp =>
    have hpull := h.pull (h.dummyStackRead (h.implied rfl)) (by decide)
    exact ⟨_, rfl, h.putP hpull fun g hne => absurd rfl (hne (by cases g <;> decide))⟩
  case incZp => exact ⟨_, rfl, h.modifyZeroPage (List.mem_singleton_self _) fun p v _ hne =>
    getFlag_setZN_other (hne (by decide)) (hne (by decide)) (v + 1) p⟩
  case lsrZp => exact ⟨_, rfl, h.modifyZeroPage (List.mem_singleton_self _) fun p v _ hne =>
    getFlag_lsrByte_other (hne (by decide)) (hne (by decide)) (hne (by decide)) p v⟩
  case rorZp => exact ⟨_, rfl, h.modifyZeroPage (List.mem_singleton_self _) fun p v _ hne =>
    getFlag_rorByte_other (hne (by decide)) (hne (by decide)) (hne (by decide)) p v⟩
  case rorAcc =>
    have hA := (h.setA (by decide) (rorByte (implied s).p s.a).1 _).trans (h.implied rfl)
    exact ⟨_, rfl, h.putP hA fun _ hne =>
      getFlag_rorByte_other (hne (by decide)) (hne (by decide)) (hne (by decide)) (implied s).p s.a⟩
  case cmpImm => exact ⟨_, rfl, h.putP (h.fetch rfl) fun _ hne =>
    getFlag_compareFlags_other (hne (by decide)) (hne (by decide)) (hne (by decide)) _ _ _⟩
  case cpyImm => exact ⟨_, rfl, h.putP (h.fetch rfl) fun _ hne =>
    getFlag_compareFlags_other (hne (by decide)) (hne (by decide)) (hne (by decide)) _ _ _⟩
  case bitZp => exact ⟨_, rfl, h.putP (h.zeroPageValue rfl) fun _ hne =>
    getFlag_bitFlags_other (hne (by decide)) (hne (by decide)) (hne (by decide)) _ _ _⟩
  case bitAbs => exact ⟨_, rfl, h.putP (h.absoluteValue rfl) fun _ hne =>
    getFlag_bitFlags_other (hne (by decide)) (hne (by decide)) (hne (by decide)) _ _ _⟩
  case sei | cld => exact ⟨_, rfl, h.putP (h.implied rfl) fun _ hne => getFlag_putFlag_other (hne (by decide)) _ _⟩
  case bne | beq | bpl | bmi | bcc => exact ⟨_, rfl, h.branch rfl _⟩
  case jmpAbs => exact ⟨_, rfl, h.jump (h.absolute rfl) _⟩
  case jsrAbs =>
    have hdummy := h.dummyStackRead (h.fetch rfl)
    have hhigh v := h.push hdummy (by decide) (by simp [storeTargets]) v
    have hlow v w := h.push (hhigh v) (by decide) (by simp [storeTargets]) w
    exact ⟨_, rfl, h.jump (h.fetch (hlow _ _)) _⟩
  case rts =>
    have hlo := h.pull (h.dummyStackRead (h.implied rfl)) (by decide)
    exact ⟨_, rfl, h.jump (h.busRead (h.jump (h.pull hlo (by decide)) _) _) _⟩

/-- The same of the state an instruction is known to complete with. -/
theorem kept_of_exec {α : Type} {i : Instr} {s t : State} {f : State → α} (ht : exec i s = .next t)
    (h : IgnoresWritesOf i s f) : f t = f s := by
  obtain ⟨u, hu, hf⟩ := exec_keeps h
  rw [ht] at hu
  cases hu
  exact hf

/-- Settles O48: a register ignores the writes of every instruction that does not list it. -/
theorem registersChangeOnlyByTheirWriters : Obligations.RegistersChangeOnlyByTheirWriters := by
  intro i s
  obtain ⟨t, ht, -⟩ := exec_busSteps i s
  refine ⟨t, ht, fun hA => ?_, fun hX => ?_, fun hY => ?_, fun hSp => ?_⟩
  · exact kept_of_exec ht (f := State.a) { setA := fun hi => absurd hi hA }
  · exact kept_of_exec ht (f := State.x) { setX := fun hi => absurd hi hX }
  · exact kept_of_exec ht (f := State.y) { setY := fun hi => absurd hi hY }
  · exact kept_of_exec ht (f := State.sp) { setSp := fun hi => absurd hi hSp }

/-- Settles O49: a flag ignores the writes of every instruction that does not list it. -/
theorem flagsChangeOnlyByTheirWriters : Obligations.FlagsChangeOnlyByTheirWriters := by
  intro i s
  obtain ⟨t, ht, -⟩ := exec_busSteps i s
  refine ⟨t, ht, fun g hg => ?_⟩
  exact kept_of_exec ht (f := fun t => getFlag g t.p) { setP := fun _ _ hv => hv g hg }

/-- Settles O50: a byte of memory ignores every write but a store to a target that names it. -/
theorem memoryChangesOnlyAtTheStoreTargets : Obligations.MemoryChangesOnlyAtTheStoreTargets := by
  intro i s
  obtain ⟨t, ht, es, -, -, hcart, hrun, -⟩ := exec_busSteps i s
  refine ⟨t, ht, hcart, hrun, fun q hq => ?_⟩
  exact kept_of_exec ht (f := fun t => t.byteAt q)
    { store := fun ea hea v t => byteAt_setRam_storeRam_other t (hq ea hea) v }

/-! ### The program counter -/

theorem implied_pc (s : State) : (implied s).pc = s.pc + BitVec.ofNat 16 0 := by rw [implied_eq]; rfl

theorem fetch_pc (s : State) : (fetch s).2.pc = s.pc + BitVec.ofNat 16 1 := by rw [fetch_ran]; rfl

theorem zeroPageX_pc (s : State) : (zeroPageX s).2.pc = s.pc + BitVec.ofNat 16 1 := by rw [zeroPageX_eq]; rfl

theorem indirectY_pc (s : State) : (indirectY s).2.pc = s.pc + BitVec.ofNat 16 1 := by
  rw [indirectY_eq s rfl rfl rfl]; rfl

theorem zeroPageValue_pc (s : State) : (zeroPageValue s).2.pc = s.pc + BitVec.ofNat 16 1 := by
  rw [zeroPageValue_eq]; rfl

theorem modifyZeroPage_pc (op : Byte → Byte → Byte × Byte) (s : State) :
    (modifyZeroPage op s).pc = s.pc + BitVec.ofNat 16 1 := by
  rw [modifyZeroPage_eq op s rfl]; rfl

theorem absolute_pc (s : State) : (absolute s).2.pc = s.pc + BitVec.ofNat 16 2 := by rw [absolute_eq]; rfl

theorem absoluteX_pc (s : State) : (absoluteX s).2.pc = s.pc + BitVec.ofNat 16 2 := by rw [absoluteX_eq]; rfl

theorem absoluteValue_pc (s : State) : (absoluteValue s).2.pc = s.pc + BitVec.ofNat 16 2 := by
  rw [absoluteValue_eq]; rfl

theorem busRead_pc (q : Addr) (s : State) : (busRead q s).2.pc = s.pc := by rw [busRead_eq]; rfl

theorem busWrite_pc (q : Addr) (v : Byte) (s : State) : (busWrite q v s).pc = s.pc := by rw [busWrite_eq]; rfl

theorem push_pc (v : Byte) (s : State) : (push v s).pc = s.pc := by rw [push_eq]; rfl

theorem pull_pc (s : State) : (pull s).2.pc = s.pc := by rw [pull_eq]; rfl

theorem pull_dummyStackRead_pc (s : State) : (pull (dummyStackRead s)).2.pc = s.pc :=
  (pull_pc _).trans (busRead_pc _ s)

/-- Settles O51: the mode's fetches move PC, and nothing else in the instruction does. -/
theorem programCounterAdvancesOverTheOperand : Obligations.ProgramCounterAdvancesOverTheOperand := by
  intro i s hi
  cases i
  case jmpAbs | jsrAbs | rts | bne | beq | bpl | bmi | bcc => exact absurd (by decide) hi
  case tax | tay | tsx | tya | txs | inx | iny | dex | dey | sei | cld | rorAcc => exact ⟨_, rfl, implied_pc s⟩
  case php | pha => exact ⟨_, rfl, (push_pc _ _).trans (implied_pc s)⟩
  case pla | plp => exact ⟨_, rfl, (pull_dummyStackRead_pc _).trans (implied_pc s)⟩
  case ldaImm | ldxImm | ldyImm | oraImm | eorImm | cmpImm | cpyImm => exact ⟨_, rfl, fetch_pc s⟩
  case ldaZp | ldxZp | ldyZp | oraZp | eorZp | bitZp => exact ⟨_, rfl, zeroPageValue_pc s⟩
  case incZp | lsrZp | rorZp => exact ⟨_, rfl, modifyZeroPage_pc _ s⟩
  case staZp | stxZp | styZp => exact ⟨_, rfl, (busWrite_pc _ _ _).trans (fetch_pc s)⟩
  case staZpx => exact ⟨_, rfl, (busWrite_pc _ _ _).trans (zeroPageX_pc s)⟩
  case staIndY => exact ⟨_, rfl, (busWrite_pc _ _ _).trans (indirectY_pc s)⟩
  case ldaAbs | ldxAbs | ldyAbs | bitAbs => exact ⟨_, rfl, absoluteValue_pc s⟩
  case staAbs | stxAbs | styAbs => exact ⟨_, rfl, (busWrite_pc _ _ _).trans (absolute_pc s)⟩
  case staAbx => exact ⟨_, rfl, (busWrite_pc _ _ _).trans (absoluteX_pc s)⟩

/-! ### The invariant -/

/-- What one transaction does to what is replayed: the latch takes its byte, and WorkRAM at most a store. -/
theorem replay_cons {cart : Cartridge} {e : BusEvent} {es : List BusEvent} {ram : Memory} {latch : Byte}
    {r : Memory × Byte} (h : replay cart (ram, latch) (e :: es) = some r) :
    ∃ m, (m = ram ∨ ∃ q v, m = storeRam ram q v) ∧ replay cart (m, e.value) es = some r := by
  cases e with
  | read q v =>
    simp only [replay] at h
    split at h
    · exact ⟨ram, .inl rfl, h⟩
    · cases h
  | write q v => exact ⟨_, .inr ⟨q, v, rfl⟩, h⟩

/-- After transactions WorkRAM is still of its size in canonical form (10_state.md R22), and the latch is the last byte
moved (20_memory.md R42). -/
theorem ok_and_latch_of_replay {cart : Cartridge} {es : List BusEvent} {ram ram' : Memory} {latch latch' : Byte}
    (hok : Memory.ok Config.ramSize ram) (h : replay cart (ram, latch) es = some (ram', latch')) :
    Memory.ok Config.ramSize ram' ∧ latch' = (es.getLast?.map BusEvent.value).getD latch := by
  induction es generalizing ram latch with
  | nil =>
    cases h
    exact ⟨hok, rfl⟩
  | cons e es ih =>
    obtain ⟨m, hm, hrest⟩ := replay_cons h
    have hmok : Memory.ok Config.ramSize m := by
      rcases hm with rfl | ⟨q, v, rfl⟩
      · exact hok
      · exact storeRam_ok hok q v
    obtain ⟨hok', hlatch⟩ := ih hmok hrest
    refine ⟨hok', ?_⟩
    rw [hlatch, List.getLast?_cons]
    cases es.getLast? <;> rfl

/-- Bus transactions and register writes keep the invariant. -/
theorem BusSteps.inv {s t : State} (h : BusSteps s t) (hs : s.Inv) : t.Inv := by
  obtain ⟨es, htrace, hdiag, hcart, hrun, hreplay⟩ := h
  have hlen : 2 ≤ s.trace.length := by
    have := congrArg List.length hs.start
    simp only [List.length_take, List.length_cons, List.length_nil] at this
    omega
  obtain ⟨hram, hlatch⟩ := ok_and_latch_of_replay hs.ram hreplay
  refine ⟨hram, hcart ▸ hs.cart, hrun.trans hs.run, ?_, ?_, ?_⟩
  · rw [hlatch, htrace, List.getLast?_append]
    cases es.getLast? with
    | none => simpa using hs.latch
    | some e => rfl
  · rw [hdiag, hs.diagnostics, htrace, diagnosticsOf_append]
  · rw [htrace, hcart, List.take_append_of_le_length hlen, hs.start]

/-- A step of a running core that completes is its opcode fetch and the instruction fetched. -/
theorem busSteps_of_step {s t : State} (hrun : s.run = .running) (h : step s = .next t) : BusSteps s t := by
  simp only [step, hrun] at h
  split at h
  · next i _ =>
    obtain ⟨u, hu, hsteps⟩ := exec_busSteps i (fetch s).2
    cases hu.symm.trans h
    exact (BusSteps.refl s).fetch.trans hsteps
  · cases h

/-- Settles O57: a running core's step is bus transactions and register writes, which keep the invariant. -/
theorem stepKeepsTheInvariant : Obligations.StepKeepsTheInvariant :=
  fun _ _ hs h => (busSteps_of_step hs.run h).inv hs

/-! ### The invariant after reset -/

/-- In the cartridge range a read returns the cartridge's byte, whatever the latch (20_memory.md R37, R43). -/
theorem readWith_of_cart (s : State) {q : Addr} (h : 0xC000 ≤ q.toNat) (l : Byte) :
    s.readWith l q = (s.cart.read q).getD 0 := by
  rw [State.readWith, byteAt_of_cart s h]
  cases hc : s.cart.read q with
  | some v => rfl
  | none =>
    have := (byteAt_eq_none_iff s q).1 ((byteAt_of_cart s h).trans hc)
    omega

/-- The reset sequence (70_reset_and_hazards.md R221) as its transactions and register writes. -/
theorem resetSequence_eq (s : State) {lo hi : Byte} (hlo : lo = s.readWith s.latch 0xFFFC)
    (hhi : hi = s.readWith lo 0xFFFD) :
    resetSequence s = { s.observe [.read 0xFFFC lo, .read 0xFFFD hi] with
      sp := s.sp - 3, p := putFlag .i true s.p, pc := joinBytes hi lo, run := .running } := by
  subst hlo hhi
  simp only [resetSequence, busRead_eq, observe_append]
  rfl

/-- The reset sequence establishes the invariant from sound storage and empty outputs. -/
theorem inv_resetSequence {s : State} (hram : Memory.ok Config.ramSize s.ram) (hcart : s.cart.mapper.ok)
    (htrace : s.trace = []) (hdiag : s.diagnostics = []) : (resetSequence s).Inv := by
  have hlo := (readWith_of_cart s (q := 0xFFFC) (by decide) s.latch).symm
  have hhi := (readWith_of_cart s (q := 0xFFFD) (by decide) ((s.cart.read 0xFFFC).getD 0)).symm
  rw [resetSequence_eq s hlo hhi]
  exact { ram := hram, cart := hcart, run := rfl
          latch := by simp [htrace]
          diagnostics := by simp [htrace, hdiag]
          start := by simp [htrace] }

/-- A list of sound banks makes a sound mapper (20_memory.md R37). -/
theorem Mapper.ofBanks_ok {banks : List Bank} (hne : banks ≠ []) (h : ∀ b ∈ banks, Memory.ok Config.bankSize b) :
    ∃ m, Mapper.ofBanks banks = some m ∧ m.ok := by
  refine ⟨.fixedBank banks.dropLast (banks.getLast hne), ?_, fun b hb => h b (List.mem_of_mem_dropLast hb),
    h _ (List.getLast_mem hne)⟩
  rw [Mapper.ofBanks, List.getLast?_eq_some_getLast hne]

/-- A valid launch powers on a block with sound banks (70_reset_and_hazards.md R220, R225). -/
theorem launch_of_valid {l : Config.Launch} (hl : l.valid = true) :
    l.ramInit.length = Config.ramSize ∧ ∃ m, launch l = .next (State.powerOn l m) ∧ m.ok := by
  have hparts := hl
  simp only [Config.Launch.valid, Bool.and_eq_true, Bool.not_eq_true', List.isEmpty_eq_false_iff, List.all_eq_true,
    beq_iff_eq] at hparts
  obtain ⟨⟨⟨hne, hbanks⟩, hram⟩, -⟩ := hparts
  have hok : ∀ b ∈ l.prgBanks.map (Memory.ofBytes 0), Memory.ok Config.bankSize b := by
    intro b hb
    obtain ⟨bs, hbs, rfl⟩ := List.mem_map.1 hb
    exact hbanks bs hbs ▸ Memory.ok_ofBytes bs
  obtain ⟨m, hm, hmok⟩ := Mapper.ofBanks_ok (mt List.map_eq_nil_iff.1 hne) hok
  exact ⟨hram, m, by simp [launch, hl, hm], hmok⟩

/-- Settles O58: a launch's storage is sound and its outputs empty, so its reset sequence establishes the invariant. -/
theorem resetHasTheInvariant : Obligations.ResetHasTheInvariant := by
  refine ⟨⟨⟨rfl, rfl⟩, ⟨nofun, rfl, rfl⟩, rfl, rfl, rfl, rfl⟩, fun l hl => ?_⟩
  obtain ⟨hram, m, hlaunch, hm⟩ := launch_of_valid hl
  exact ⟨_, hlaunch, inv_resetSequence (hram ▸ Memory.ok_ofBytes l.ramInit) hm rfl rfl⟩

end Sys2Proof.Machine
end

section
/-! PROOF. The memory (20_memory.md): the arbiter, its devices, the latch, the stack, the outputs, and the replay of the
trace. -/

namespace Sys2Proof.Machine

/-! ### Replaying the trace -/

/-- Bus transactions and register writes keep the whole-trace replay. -/
theorem BusSteps.replaysFrom {s₀ s t : State} (h : BusSteps s t) (hs : s.ReplaysFrom s₀) : t.ReplaysFrom s₀ := by
  obtain ⟨es, htrace, hdiag, hcart, -, hreplay⟩ := h
  obtain ⟨hcart₀, hdiag₀, hreplay₀⟩ := hs
  refine ⟨hcart.trans hcart₀, ?_, ?_⟩
  · rw [hdiag, hdiag₀, htrace, diagnosticsOf_append]
  · rw [htrace, replay_append, hreplay₀, Option.bind_some, ← hcart₀, hreplay]

/-- The replay does not speak of the run state. -/
theorem State.ReplaysFrom.setRun {s₀ s : State} (h : s.ReplaysFrom s₀) (r : RunState) :
    (s.setRun r).ReplaysFrom s₀ := h

/-- The reset sequence (70_reset_and_hazards.md R221), two reads and register writes, keeps the whole-trace replay. -/
theorem resetSequence_replaysFrom {s₀ s : State} (hs : s.ReplaysFrom s₀) : (resetSequence s).ReplaysFrom s₀ := by
  have hreads := ((((BusSteps.refl s).setSp (s.sp - 3)).setP (putFlag .i true s.p)).busRead
    Config.resetVectorLo).busRead Config.resetVectorHi
  exact ((hreads.setPc _).replaysFrom hs).setRun .running

/-- Settles O59: a step that completes is the reset sequence, or a running core's transactions. -/
theorem stepKeepsTheWholeTraceReplay : Obligations.StepKeepsTheWholeTraceReplay := by
  intro s₀ s t hs h
  cases hrun : s.run with
  | running => exact (busSteps_of_step hrun h).replaysFrom hs
  | notRunning =>
    simp only [step, hrun] at h
    cases h
    exact resetSequence_replaysFrom hs
  | fault op =>
    simp only [step, hrun] at h
    cases h

/-- Settles O56: the transactions are those of `busSteps_of_step`. -/
theorem everyStepReplaysOnTheBus : Obligations.EveryStepReplaysOnTheBus := by
  intro s t hrun h
  obtain ⟨es, htrace, hdiag, hcart, -, hreplay⟩ := busSteps_of_step hrun h
  exact ⟨es, htrace, hdiag, hcart, hreplay⟩

/-- Settles O60: a block just powered on has an empty trace, and the reset sequence keeps its replay. -/
theorem launchAndResetReplay : Obligations.LaunchAndResetReplay := by
  intro l hl
  obtain ⟨-, m, hlaunch, -⟩ := launch_of_valid hl
  have hself : (State.powerOn l m).ReplaysFrom (State.powerOn l m) := ⟨rfl, rfl, rfl⟩
  exact ⟨_, hlaunch, hself, resetSequence_replaysFrom hself⟩

/-! ### The devices and the arbiter -/

/-- `WorkRAM.read` (20_memory.md R33). -/
theorem workRamRead_eq (ram : Memory) (q : Addr) :
    workRamRead ram q = if q.toNat ≤ 0x1FFF then some (Memory.read ram (q.toNat % 2048)) else none := by
  simp [workRamRead, inRam, ramIndex]

/-- `WorkRAM.write` (R34). -/
theorem workRamWrite_eq (ram : Memory) (q : Addr) (v : Byte) :
    workRamWrite ram q v =
      if q.toNat ≤ 0x1FFF then (true, Memory.write ram (q.toNat % 2048) v) else (false, ram) := by
  simp [workRamWrite, inRam, ramIndex]

/-- Settles O9: a bus write is a store, which every mirror of its address reads and no other address sees. -/
theorem workRamRoundTripsAtEveryMirror : Obligations.WorkRamRoundTripsAtEveryMirror := by
  refine ⟨workRamRead_eq, workRamWrite_eq, fun s p q v hwf => ?_⟩
  rw [busWrite_eq]
  exact ⟨fun h => byteAt_setRam_storeRam_same (s.observe [.write p v]) hwf h v,
    fun h => byteAt_setRam_storeRam_other (s.observe [.write p v]) h v⟩

/-- A mapper claims no write and is unchanged by it (R38). -/
theorem Mapper.write_eq (m : Mapper) (q : Addr) (v : Byte) : m.write q v = (false, m) := by
  cases m
  rfl

/-- Settles O10: FixedBank's read and write, and the refusal of a launch with no bank. -/
theorem fixedBankServesTheLastBankReadOnly : Obligations.FixedBankServesTheLastBankReadOnly := by
  refine ⟨fun earlier last q => ?_, Mapper.write_eq, fun l hl => ?_⟩
  · simp [Mapper.read, inCart]
  · have hvalid : l.valid = false := by simp [Config.Launch.valid, hl]
    simp [launch, hvalid]

/-- Settles O6: the arbiter's three answers. -/
theorem busReadFollowsTheArbiter : Obligations.BusReadFollowsTheArbiter := by
  intro s q
  refine ⟨fun v hcart => ?_, fun v hcart hram => ?_, fun hcart hram => ?_⟩
  · have hbyte : s.byteAt q = some v := by rw [byteAt_eq_or, hcart, Option.some_or]
    rw [busRead, hbyte]
    rfl
  · have hbyte : s.byteAt q = some v := by rw [byteAt_eq_or, hcart, hram, Option.none_or]
    rw [busRead, hbyte]
    rfl
  · have hbyte : s.byteAt q = none := by rw [byteAt_eq_or, hcart, hram, Option.none_or]
    rw [busRead, hbyte]
    rfl

/-- A bus write as its effects in order: the latch, the two offers, the diagnostic, the trace (R41). -/
theorem busWrite_eq_offers (q : Addr) (v : Byte) (s : State) (t : State)
    (ht : t = ((s.setLatch v).setCart (s.cart.write q v).2).setRam (workRamWrite s.ram q v).2) :
    busWrite q v s = (if (s.cart.write q v).1 || (workRamWrite s.ram q v).1 then t
      else t.emit (.openWrite q)).record (.write q v) := by
  subst ht
  rfl

/-- Settles O7: the two offers of the write, and `OB-W` by whether one was claimed. -/
theorem busWriteIsOfferedToBothDevices : Obligations.BusWriteIsOfferedToBothDevices := by
  intro s q v
  rw [busWrite_eq_offers q v s _ rfl]
  cases (s.cart.write q v).1 || (workRamWrite s.ram q v).1
  · rfl
  · rfl

/-! ### The stack -/

theorem push_ram (v : Byte) (s : State) : (push v s).ram = Memory.write s.ram (0x100 + s.sp.toNat) v := by
  rw [push_eq, storeRam_stackAddr]
  rfl

/-- Settles O11: the slot lies in page one, where the write is a store in WorkRAM. -/
theorem pushWritesThenDecrements : Obligations.PushWritesThenDecrements := by
  refine ⟨stackAddr_toNat, fun s v => ?_⟩
  rw [push_eq, storeRam_stackAddr]
  rfl

theorem pull_fst (s : State) : (pull s).1 = Memory.read s.ram (0x100 + (s.sp + 1).toNat) := by
  rw [pull_eq, readWith_stackAddr]

theorem pull_ram (s : State) : (pull s).2.ram = s.ram := by
  rw [pull_eq]
  rfl

@[simp] theorem pull_sp (s : State) : (pull s).2.sp = s.sp + 1 := by
  rw [pull_eq]
  rfl

@[simp] theorem pushAll_cons (v : Byte) (vs : List Byte) (s : State) :
    pushAll (v :: vs) s = pushAll vs (push v s) := rfl

theorem pushAll_sp (vs : List Byte) (s : State) : (pushAll vs s).sp = s.sp - BitVec.ofNat 8 vs.length := by
  induction vs generalizing s with
  | nil => simp [pushAll]
  | cons v vs ih =>
    rw [pushAll_cons, ih, push_sp, List.length_cons, BitVec.ofNat_add]
    bv_omega

/-- Pushes reach down from SP: a slot above SP is kept until they have wrapped around to it. -/
theorem read_pushAll_above {vs : List Byte} {d : Nat} (hd : 0 < d) (hlen : d + vs.length ≤ 256) (s : State) :
    Memory.read (pushAll vs s).ram (0x100 + (s.sp + BitVec.ofNat 8 d).toNat) =
      Memory.read s.ram (0x100 + (s.sp + BitVec.ofNat 8 d).toNat) := by
  induction vs generalizing d s with
  | nil => rfl
  | cons v vs ih =>
    simp only [List.length_cons] at hlen
    have hslot : s.sp + BitVec.ofNat 8 d = (push v s).sp + BitVec.ofNat 8 (d + 1) := by
      rw [push_sp, BitVec.ofNat_add]
      bv_omega
    have hne : 0x100 + (s.sp + BitVec.ofNat 8 d).toNat ≠ 0x100 + s.sp.toNat := by
      simp only [BitVec.toNat_add, BitVec.toNat_ofNat]
      omega
    calc Memory.read (pushAll vs (push v s)).ram (0x100 + (s.sp + BitVec.ofNat 8 d).toNat)
        = Memory.read (push v s).ram (0x100 + (s.sp + BitVec.ofNat 8 d).toNat) := by
          rw [hslot]
          exact ih (by omega) (by omega) _
      _ = Memory.read s.ram (0x100 + (s.sp + BitVec.ofNat 8 d).toNat) := by
          rw [push_ram, Memory.read_write_other hne]

/-- So a byte pushed stays in its slot under up to 255 more. -/
theorem read_pushAll_push {s : State} (hwf : s.ram.wf = true) (v : Byte) {vs : List Byte} (hlen : vs.length < 256) :
    Memory.read (pushAll vs (push v s)).ram (0x100 + s.sp.toNat) = v := by
  have hslot : (push v s).sp + BitVec.ofNat 8 1 = s.sp := by
    rw [push_sp]
    bv_omega
  have hkept := read_pushAll_above (vs := vs) Nat.one_pos (by omega) (push v s)
  rw [hslot] at hkept
  rw [hkept, push_ram, Memory.read_write_same hwf]

theorem pullAll_succ (n : Nat) (s : State) :
    pullAll (n + 1) s = ((pull s).1 :: (pullAll n (pull s).2).1, (pullAll n (pull s).2).2) := rfl

/-- Of a row of pulls one may also split off the last. -/
theorem pullAll_succ_last (n : Nat) (s : State) :
    pullAll (n + 1) s = ((pullAll n s).1 ++ [(pull (pullAll n s).2).1], (pull (pullAll n s).2).2) := by
  induction n generalizing s with
  | zero => rfl
  | succ n ih =>
    rw [pullAll_succ (n + 1) s, ih (pull s).2, pullAll_succ n s]
    rfl

theorem pullAll_ram (n : Nat) (s : State) : (pullAll n s).2.ram = s.ram := by
  induction n with
  | zero => rfl
  | succ n ih => rw [pullAll_succ_last, pull_ram, ih]

/-- What up to 256 pushes stored, as many pulls return in reverse order, and SP comes back. -/
theorem pullAll_pushAll {vs : List Byte} {s : State} (hwf : s.ram.wf = true) (hlen : vs.length ≤ 256) :
    (pullAll vs.length (pushAll vs s)).1 = vs.reverse ∧ (pullAll vs.length (pushAll vs s)).2.sp = s.sp := by
  induction vs generalizing s with
  | nil => exact ⟨rfl, rfl⟩
  | cons v vs ih =>
    simp only [List.length_cons] at hlen
    have hwf' : (push v s).ram.wf = true := by
      rw [push_ram]
      exact Memory.wf_write hwf _ v
    obtain ⟨hbytes, hsp⟩ := ih hwf' (by omega)
    rw [push_sp] at hsp
    have hback : s.sp - 1 + 1 = s.sp := by bv_omega
    have hlast : (pull (pullAll vs.length (pushAll vs (push v s))).2).1 = v := by
      rw [pull_fst, hsp, pullAll_ram, hback, read_pushAll_push hwf v (by omega)]
    rw [List.length_cons, pushAll_cons, pullAll_succ_last, hbytes, hlast, List.reverse_cons, pull_sp, hsp, hback]
    exact ⟨rfl, rfl⟩

/-- Settles O12: a pull by `pull_eq`, and the LIFO order by induction on the bytes pushed. -/
theorem stackIsLastInFirstOut : Obligations.StackIsLastInFirstOut := by
  refine ⟨fun s => ?_, fun s vs hwf hlen => ⟨pushAll_sp vs s, pullAll_pushAll hwf hlen⟩⟩
  rw [pull_eq, readWith_stackAddr]
  rfl

/-! ### Open bus -/

/-- An open-bus read returns the latch (R44). -/
theorem readWith_of_open (s : State) {q : Addr} (hlo : 0x2000 ≤ q.toNat) (hhi : q.toNat ≤ 0xBFFF) (l : Byte) :
    s.readWith l q = l := by
  rw [State.readWith, (byteAt_eq_none_iff s q).2 ⟨hlo, hhi⟩, Option.getD_none]

/-- An open-bus access made last leaves its diagnostic last (R45). -/
theorem getLast?_diagnostics_ran (s : State) (n : Nat) (es : List BusEvent) {e : BusEvent} {d : Diagnostic}
    (h : e.openBus = some d) : (s.ran n (es ++ [e])).diagnostics.getLast? = some d := by
  simp [diagnosticsOf, h]

/-- The data read of an absolute operand in open bus returns the high operand byte, the last byte on the bus (R44), and
emits `OB-R` (R45). -/
theorem absoluteValue_of_open (s : State) (hlo : 0x2000 ≤ s.addr16.toNat) (hhi : s.addr16.toNat ≤ 0xBFFF) :
    ∃ u, absoluteValue s = (s.byte2, u) ∧ u.latch = s.byte2 ∧ u.p = s.p ∧
      u.diagnostics.getLast? = some (.openRead s.addr16) := by
  have hvalue : s.absValue = s.byte2 := readWith_of_open s hlo hhi s.byte2
  have hdiag : BusEvent.openBus (.read s.addr16 s.byte2) = some (.openRead s.addr16) := if_pos ⟨hlo, hhi⟩
  rw [absoluteValue_eq, hvalue]
  exact ⟨_, rfl, rfl, rfl, getLast?_diagnostics_ran s 2 [.read s.pc s.byte1, .read (s.pc + 1) s.byte2] hdiag⟩

/-- Settles O22: each load takes the open-bus byte of `absoluteValue_of_open`. -/
theorem openBusLoadReturnsTheHighOperandByte : Obligations.OpenBusLoadReturnsTheHighOperandByte := by
  intro s hlo hhi
  obtain ⟨u, hu, hlatch, hp, hdiag⟩ := absoluteValue_of_open s hlo hhi
  have hzn : setZN s.byte2 u.p = setZN s.byte2 s.p := congrArg _ hp
  simp only [List.forall_mem_cons]
  refine ⟨⟨loadA s.byte2 u, ?_, rfl, hlatch, hzn, hdiag⟩, ⟨loadX s.byte2 u, ?_, rfl, hlatch, hzn, hdiag⟩,
    ⟨loadY s.byte2 u, ?_, rfl, hlatch, hzn, hdiag⟩, by simp⟩
  · rw [exec, execLdaAbs, hu]
  · rw [exec, execLdxAbs, hu]
  · rw [exec, execLdyAbs, hu]

/-! ### The latch -/

theorem busRead_latch (s : State) (q : Addr) : (busRead q s).2.latch = (busRead q s).1 := by
  rw [busRead_eq]
  rfl

theorem busWrite_latch (s : State) (q : Addr) (v : Byte) : (busWrite q v s).latch = v := by
  rw [busWrite_eq]
  rfl

theorem busRead_fst_of_open (s : State) {q : Addr} (hlo : 0x2000 ≤ q.toNat) (hhi : q.toNat ≤ 0xBFFF) :
    (busRead q s).1 = s.latch := by
  rw [busRead_eq, readWith_of_open s hlo hhi]

/-- Every instruction begins with a read at PC, a fetch or a dummy read; the rest is transactions and register writes. -/
theorem exec_busSteps_after_first_read (i : Instr) (s : State) :
    ∃ t, exec i s = .next t ∧ BusSteps (busRead s.pc s).2 t := by
  have r := BusSteps.refl (busRead s.pc s).2
  have f : BusSteps (busRead s.pc s).2 (fetch s).2 := r.setPc _
  cases i
  case tsx | tax | inx | dex => exact ⟨_, rfl, (r.setX _).setP _⟩
  case tay | iny | dey => exact ⟨_, rfl, (r.setY _).setP _⟩
  case tya | rorAcc => exact ⟨_, rfl, (r.setA _).setP _⟩
  case txs => exact ⟨_, rfl, r.setSp _⟩
  case sei | cld => exact ⟨_, rfl, r.setP _⟩
  case php | pha => exact ⟨_, rfl, r.push _⟩
  case pla => exact ⟨_, rfl, (r.dummyStackRead.pull.setA _).setP _⟩
  case plp => exact ⟨_, rfl, r.dummyStackRead.pull.setP _⟩
  case rts => exact ⟨_, rfl, ((r.dummyStackRead.pull.pull.setPc _).dummyRead _).setPc _⟩
  case ldaImm | oraImm | eorImm => exact ⟨_, rfl, (f.setA _).setP _⟩
  case ldxImm => exact ⟨_, rfl, (f.setX _).setP _⟩
  case ldyImm => exact ⟨_, rfl, (f.setY _).setP _⟩
  case cmpImm | cpyImm => exact ⟨_, rfl, f.setP _⟩
  case ldaZp | oraZp | eorZp => exact ⟨_, rfl, ((f.busRead _).setA _).setP _⟩
  case ldxZp => exact ⟨_, rfl, ((f.busRead _).setX _).setP _⟩
  case ldyZp => exact ⟨_, rfl, ((f.busRead _).setY _).setP _⟩
  case bitZp => exact ⟨_, rfl, (f.busRead _).setP _⟩
  case ldaAbs => exact ⟨_, rfl, ((f.fetch.busRead _).setA _).setP _⟩
  case ldxAbs => exact ⟨_, rfl, ((f.fetch.busRead _).setX _).setP _⟩
  case ldyAbs => exact ⟨_, rfl, ((f.fetch.busRead _).setY _).setP _⟩
  case bitAbs => exact ⟨_, rfl, (f.fetch.busRead _).setP _⟩
  case staZp | stxZp | styZp => exact ⟨_, rfl, f.busWrite _ _⟩
  case staAbs | stxAbs | styAbs => exact ⟨_, rfl, f.fetch.busWrite _ _⟩
  case staZpx => exact ⟨_, rfl, (f.dummyRead _).busWrite _ _⟩
  case staAbx => exact ⟨_, rfl, (f.fetch.dummyRead _).busWrite _ _⟩
  case staIndY => exact ⟨_, rfl, (((f.busRead _).busRead _).dummyRead _).busWrite _ _⟩
  case incZp | lsrZp | rorZp => exact ⟨_, rfl, (((f.busRead _).busWrite _ _).busWrite _ _).setP _⟩
  case jmpAbs => exact ⟨_, rfl, f.fetch.setPc _⟩
  case jsrAbs => exact ⟨_, rfl, ((f.dummyStackRead.push _).push _).fetch.setPc _⟩
  case bne | beq | bpl | bmi | bcc =>
    exact ⟨_, rfl, BusSteps.ifElse (BusSteps.ifElse ((f.setPc _).dummyRead _) (f.setPc _)) f⟩

/-- The replay of transactions ends with the latch at the last byte moved (20_memory.md R42). -/
theorem latch_of_replay {cart : Cartridge} {es : List BusEvent} {ram ram' : Memory} {latch latch' : Byte}
    (h : replay cart (ram, latch) es = some (ram', latch')) :
    latch' = (es.getLast?.map BusEvent.value).getD latch := by
  induction es generalizing ram latch with
  | nil =>
    cases h
    rfl
  | cons e es ih =>
    obtain ⟨m, -, hrest⟩ := replay_cons h
    rw [ih hrest, List.getLast?_cons]
    cases es.getLast? <;> rfl

/-- After an instruction the latch holds the byte of its last bus access, and there was one. -/
theorem exec_latch (i : Instr) (s : State) : ∃ t e, exec i s = .next t ∧
    t.trace.getLast? = some e ∧ s.trace.length < t.trace.length ∧ t.latch = e.value := by
  obtain ⟨t, ht, es, htrace, -, -, -, hreplay⟩ := exec_busSteps_after_first_read i s
  rw [busRead_eq, State.observe_trace] at htrace
  have hlatch := latch_of_replay hreplay
  rw [busRead_latch, busRead_eq] at hlatch
  have hlast : t.trace.getLast? = some (es.getLast?.getD (.read s.pc (s.readWith s.latch s.pc))) := by
    rw [htrace, List.append_assoc, List.getLast?_append, List.singleton_append, List.getLast?_cons]
    rfl
  refine ⟨t, _, ht, hlast, ?_, ?_⟩
  · simp [htrace]
  · rw [hlatch]
    cases es.getLast? <;> rfl

/-- Settles O8: by the laws of the two accesses, and for an instruction by its last transaction. -/
theorem latchHoldsTheLastByteMoved : Obligations.LatchHoldsTheLastByteMoved := by
  refine ⟨busRead_latch, busWrite_latch, fun s q hlo hhi => ?_, exec_latch⟩
  have hopen := busRead_fst_of_open s hlo hhi
  refine ⟨hopen, (busRead_latch s q).trans hopen, fun r v => ?_⟩
  rw [busRead_fst_of_open _ hlo hhi, busWrite_latch]

/-! ### The outputs -/

/-- The state with earlier output before its own. -/
def State.withEarlier (tr : List BusEvent) (dg : List Diagnostic) (s : State) : State :=
  { s with trace := tr ++ s.trace, diagnostics := dg ++ s.diagnostics }

section
variable (tr : List BusEvent) (dg : List Diagnostic) (s : State)

theorem State.withEarlier_x : (s.withEarlier tr dg).x = s.x := rfl

theorem State.withEarlier_y : (s.withEarlier tr dg).y = s.y := rfl

theorem State.withEarlier_p : (s.withEarlier tr dg).p = s.p := rfl

theorem State.withEarlier_pc : (s.withEarlier tr dg).pc = s.pc := rfl

theorem State.observe_withEarlier (es : List BusEvent) :
    (s.withEarlier tr dg).observe es = (s.observe es).withEarlier tr dg := by
  apply State.ext <;> simp [State.withEarlier]

theorem State.setSp_withEarlier (v : Byte) :
    (s.withEarlier tr dg).setSp v = (s.setSp v).withEarlier tr dg := rfl

theorem State.setPc_withEarlier (v : Addr) :
    (s.withEarlier tr dg).setPc v = (s.setPc v).withEarlier tr dg := rfl

theorem State.setP_withEarlier (v : Byte) :
    (s.withEarlier tr dg).setP v = (s.setP v).withEarlier tr dg := rfl

/-! Each shared operation answers alike whatever the earlier output, and leaves that in front. -/

theorem busRead_withEarlier (q : Addr) :
    busRead q (s.withEarlier tr dg) = ((busRead q s).1, (busRead q s).2.withEarlier tr dg) := by
  rw [busRead_eq, busRead_eq, State.observe_withEarlier]
  rfl

theorem busWrite_withEarlier (q : Addr) (v : Byte) :
    busWrite q v (s.withEarlier tr dg) = (busWrite q v s).withEarlier tr dg := by
  rw [busWrite_eq, busWrite_eq, State.observe_withEarlier]
  rfl

theorem dummyRead_withEarlier (q : Addr) :
    dummyRead q (s.withEarlier tr dg) = (dummyRead q s).withEarlier tr dg := by
  rw [dummyRead, busRead_withEarlier]
  rfl

theorem fetch_withEarlier : fetch (s.withEarlier tr dg) = ((fetch s).1, (fetch s).2.withEarlier tr dg) := by
  rw [fetch, busRead_withEarlier]
  rfl

theorem push_withEarlier (v : Byte) : push v (s.withEarlier tr dg) = (push v s).withEarlier tr dg := by
  rw [push, busWrite_withEarlier]
  rfl

theorem pull_withEarlier : pull (s.withEarlier tr dg) = ((pull s).1, (pull s).2.withEarlier tr dg) := by
  rw [pull, State.setSp_withEarlier, busRead_withEarlier]
  rfl

theorem dummyStackRead_withEarlier :
    dummyStackRead (s.withEarlier tr dg) = (dummyStackRead s).withEarlier tr dg := dummyRead_withEarlier tr dg s _

theorem implied_withEarlier : implied (s.withEarlier tr dg) = (implied s).withEarlier tr dg :=
  dummyRead_withEarlier tr dg s _

theorem zeroPage_withEarlier :
    zeroPage (s.withEarlier tr dg) = ((zeroPage s).1, (zeroPage s).2.withEarlier tr dg) := by
  rw [zeroPage, fetch_withEarlier]
  rfl

theorem absolute_withEarlier :
    absolute (s.withEarlier tr dg) = ((absolute s).1, (absolute s).2.withEarlier tr dg) := by
  simp only [absolute, fetch_withEarlier]

theorem zeroPageX_withEarlier :
    zeroPageX (s.withEarlier tr dg) = ((zeroPageX s).1, (zeroPageX s).2.withEarlier tr dg) := by
  cases hfetch : fetch s
  simp only [zeroPageX, fetch_withEarlier, dummyRead_withEarlier, State.withEarlier_x, hfetch]

theorem absoluteX_withEarlier :
    absoluteX (s.withEarlier tr dg) = ((absoluteX s).1, (absoluteX s).2.withEarlier tr dg) := by
  cases hbase : absolute s
  simp only [absoluteX, absolute_withEarlier, dummyRead_withEarlier, State.withEarlier_x, hbase]

theorem indirectY_withEarlier :
    indirectY (s.withEarlier tr dg) = ((indirectY s).1, (indirectY s).2.withEarlier tr dg) := by
  cases hp : fetch s with
  | mk p u =>
    cases hlo : busRead (zext16 p) u with
    | mk lo w =>
      cases hhi : busRead (zext16 (p + 1)) w
      simp only [indirectY, fetch_withEarlier, busRead_withEarlier, dummyRead_withEarlier, State.withEarlier_y, hp, hlo,
        hhi]

theorem zeroPageValue_withEarlier :
    zeroPageValue (s.withEarlier tr dg) = ((zeroPageValue s).1, (zeroPageValue s).2.withEarlier tr dg) := by
  simp only [zeroPageValue, zeroPage_withEarlier, busRead_withEarlier]

theorem absoluteValue_withEarlier :
    absoluteValue (s.withEarlier tr dg) = ((absoluteValue s).1, (absoluteValue s).2.withEarlier tr dg) := by
  simp only [absoluteValue, absolute_withEarlier, busRead_withEarlier]

theorem modifyZeroPage_withEarlier (op : Byte → Byte → Byte × Byte) :
    modifyZeroPage op (s.withEarlier tr dg) = (modifyZeroPage op s).withEarlier tr dg := by
  cases hea : zeroPage s with
  | mk ea u =>
    cases hv : busRead ea u
    simp only [modifyZeroPage, zeroPage_withEarlier, busRead_withEarlier, busWrite_withEarlier, State.withEarlier_p,
      State.setP_withEarlier, hea, hv]

theorem branch_withEarlier (taken : Byte → Bool) :
    branch taken (s.withEarlier tr dg) = (branch taken s).withEarlier tr dg := by
  cases hfetch : fetch s with
  | mk off u =>
    simp only [branch, relative, fetch_withEarlier, hfetch, State.withEarlier_p, State.withEarlier_pc,
      State.setPc_withEarlier, dummyRead_withEarlier]
    split_ifs <;> rfl

/-- An instruction does the same whatever the earlier output. -/
theorem exec_withEarlier (i : Instr) :
    ∃ t, exec i s = .next t ∧ exec i (s.withEarlier tr dg) = .next (t.withEarlier tr dg) := by
  cases i
  case tsx | tax | inx | dex | tay | iny | dey | tya | txs | sei | cld | rorAcc =>
    simp only [exec, execTsx, execTax, execInx, execDex, execTay, execIny, execDey, execTya, execTxs, execSei, execCld,
      execRorAcc, accumulator, implied_withEarlier]
    exact ⟨_, rfl, rfl⟩
  case php | pha =>
    simp only [exec, execPhp, execPha, implied_withEarlier, push_withEarlier]
    exact ⟨_, rfl, rfl⟩
  case pla | plp =>
    cases h : pull (dummyStackRead (implied s))
    simp only [exec, execPla, execPlp, implied_withEarlier, dummyStackRead_withEarlier, pull_withEarlier, h]
    exact ⟨_, rfl, rfl⟩
  case ldaImm | ldxImm | ldyImm | oraImm | eorImm | cmpImm | cpyImm =>
    cases h : fetch s
    simp only [exec, execLdaImm, execLdxImm, execLdyImm, execOraImm, execEorImm, execCmpImm, execCpyImm, immediate,
      fetch_withEarlier, h]
    exact ⟨_, rfl, rfl⟩
  case ldaZp | ldxZp | ldyZp | oraZp | eorZp | bitZp =>
    cases h : zeroPageValue s
    simp only [exec, execLdaZp, execLdxZp, execLdyZp, execOraZp, execEorZp, execBitZp, zeroPageValue_withEarlier, h]
    exact ⟨_, rfl, rfl⟩
  case ldaAbs | ldxAbs | ldyAbs | bitAbs =>
    cases h : absoluteValue s
    simp only [exec, execLdaAbs, execLdxAbs, execLdyAbs, execBitAbs, absoluteValue_withEarlier, h]
    exact ⟨_, rfl, rfl⟩
  case staZp | stxZp | styZp =>
    cases h : zeroPage s
    simp only [exec, execStaZp, execStxZp, execStyZp, zeroPage_withEarlier, busWrite_withEarlier, h]
    exact ⟨_, rfl, rfl⟩
  case staAbs | stxAbs | styAbs | jmpAbs =>
    cases h : absolute s
    simp only [exec, execStaAbs, execStxAbs, execStyAbs, execJmpAbs, absolute_withEarlier, busWrite_withEarlier, h]
    exact ⟨_, rfl, rfl⟩
  case staZpx =>
    cases h : zeroPageX s
    simp only [exec, execStaZpx, zeroPageX_withEarlier, busWrite_withEarlier, h]
    exact ⟨_, rfl, rfl⟩
  case staAbx =>
    cases h : absoluteX s
    simp only [exec, execStaAbx, absoluteX_withEarlier, busWrite_withEarlier, h]
    exact ⟨_, rfl, rfl⟩
  case staIndY =>
    cases h : indirectY s
    simp only [exec, execStaIndY, indirectY_withEarlier, busWrite_withEarlier, h]
    exact ⟨_, rfl, rfl⟩
  case incZp | lsrZp | rorZp =>
    exact ⟨modifyZeroPage _ s, rfl, congrArg Host.Outcome.next (modifyZeroPage_withEarlier tr dg s _)⟩
  case bne | beq | bpl | bmi | bcc =>
    exact ⟨branch _ s, rfl, congrArg Host.Outcome.next (branch_withEarlier tr dg s _)⟩
  case jsrAbs =>
    cases h : fetch s
    simp only [exec, execJsrAbs, fetch_withEarlier, dummyStackRead_withEarlier, push_withEarlier,
      State.withEarlier_pc, h]
    generalize fetch (push _ (push _ _)) = r
    exact ⟨_, rfl, rfl⟩
  case rts =>
    cases hlo : pull (dummyStackRead (implied s)) with
    | mk lo u =>
      cases hhi : pull u
      simp only [exec, execRts, implied_withEarlier, dummyStackRead_withEarlier, pull_withEarlier, hlo, hhi,
        State.setPc_withEarlier, dummyRead_withEarlier]
      exact ⟨_, rfl, rfl⟩

end

/-- Settles O54: both runs are that from the state with no output yet, with their earlier output put before it. -/
theorem outputsAreNeverReadBack : Obligations.OutputsAreNeverReadBack := by
  intro i s tr dg
  obtain ⟨u, hu, hs⟩ := exec_withEarlier s.trace s.diagnostics { s with trace := [], diagnostics := [] } i
  obtain ⟨u', hu', hother⟩ := exec_withEarlier tr dg { s with trace := [], diagnostics := [] } i
  cases hu.symm.trans hu'
  simp only [State.withEarlier, List.append_nil] at hs hother
  exact ⟨_, u.trace, u.diagnostics, hs, rfl, rfl, hother⟩

end Sys2Proof.Machine
end

section
/-! PROOF. Encoding (30_encoding.md): the decoder and the encoder are inverse to each other, and a step fetches and runs
what the bytes at PC decode to. -/

namespace Sys2Proof.Machine

/-! ### The decoder and the encoder -/

/-- What `decode` accepts: an opcode byte of the table, then the operand field of its format (R60, R63). -/
theorem decode_eq_ok_iff {bs rest : List Byte} {c : Code} :
    decode bs = .ok (c, rest) ↔ ∃ op ops, bs = op :: ops ∧ decodeOpcode op = some c.instr ∧
      takeOperand c.instr.format ops = some (c.operand, rest) := by
  constructor
  · intro h
    cases bs with
    | nil => cases h
    | cons op ops =>
      simp only [decode] at h
      split at h
      · cases h
      · next hop =>
        split at h
        · cases h
        · next hoperand =>
          cases h
          exact ⟨op, ops, rfl, hop, hoperand⟩
  · rintro ⟨op, ops, rfl, hop, hoperand⟩
    simp only [decode, hop, hoperand]

/-- Settles O1: the table finds the opcode's instruction again, and its format the operand field. -/
theorem encodeThenDecodeReturnsTheInstruction : Obligations.EncodeThenDecodeReturnsTheInstruction := by
  intro c rest hwf
  exact decode_eq_ok_iff.2 ⟨c.instr.opcode, c.operand.bytes ++ rest, rfl, decodeOpcode_opcode c.instr,
    takeOperand_bytes hwf rest⟩

/-- Settles O2: the byte looked up is the opcode of what was found, and the operand field read has the bytes read. -/
theorem decodedBytesAreTheEncoding : Obligations.DecodedBytesAreTheEncoding := by
  intro bs rest c h
  obtain ⟨op, ops, rfl, hop, hoperand⟩ := decode_eq_ok_iff.1 h
  obtain ⟨hfits, hbytes⟩ := takeOperand_some hoperand
  refine ⟨hfits, ?_⟩
  rw [encode, opcode_of_decodeOpcode hop, List.cons_append, hbytes]

/-- An operand field that fits a format has as many bytes as the format takes (R61). -/
theorem length_bytes_of_fits {o : Operand} {f : Format} (h : o.fits f = true) : o.bytes.length = operandLength f := by
  cases o <;> simp only [Operand.fits, decide_eq_true_eq] at h
  case none | zp8 | addr16 => rcases h with rfl | rfl <;> rfl
  case imm8 | ptr8 | off8 => subst h; rfl

/-- A well-formed instruction is one opcode byte and its operand bytes (R60, R61). -/
theorem length_encode {c : Code} (hwf : c.wf = true) : (encode c).length = operandLength c.instr.format + 1 :=
  congrArg (· + 1) (length_bytes_of_fits hwf)

/-! ### Fetches in a row -/

/-- Fewer fetches return the first of the bytes that more fetches return. -/
theorem take_fetchMany {n m : Nat} (h : n ≤ m) (s : State) : (fetchMany m s).take n = fetchMany n s := by
  induction n generalizing m s with
  | zero => rfl
  | succ n ih =>
    obtain ⟨m, rfl⟩ := Nat.exists_eq_add_of_le' (Nat.one_le_of_lt h)
    simp only [fetchMany, List.take_succ_cons, ih (Nat.le_of_succ_le_succ h)]

/-- Three fetches in a row read at PC and the two addresses after it, each with the latch the one before left (R62). -/
theorem fetchMany_three {s : State} {op b1 b2 : Byte} (hop : op = s.readWith s.latch s.pc)
    (h1 : b1 = s.readWith op (s.pc + 1)) (h2 : b2 = s.readWith b1 (s.pc + 2)) : fetchMany 3 s = [op, b1, b2] := by
  have hfirst : fetch s = (op, s.ran 1 [.read s.pc op]) := by rw [fetch_ran, hop, State.byte1]
  have hsecond : fetch (s.ran 1 [.read s.pc op]) = (b1, s.ran 2 [.read s.pc op, .read (s.pc + 1) b1]) := by
    subst hop h1
    exact fetch_two s
  have hthird : (fetch (s.ran 2 [.read s.pc op, .read (s.pc + 1) b1])).1 = b2 := by
    rw [fetch_ran]
    exact h2.symm
  simp only [fetchMany, hfirst, hsecond, hthird]

/-- When the bytes at PC decode, as many fetches as the instruction has bytes return its encoding (R61, R62). -/
theorem fetchMany_eq_encode {s : State} {op b1 b2 : Byte} {c : Code} {rest : List Byte}
    (hop : op = s.readWith s.latch s.pc) (h1 : b1 = s.readWith op (s.pc + 1)) (h2 : b2 = s.readWith b1 (s.pc + 2))
    (hdec : decode [op, b1, b2] = .ok (c, rest)) : fetchMany (operandLength c.instr.format + 1) s = encode c := by
  obtain ⟨hwf, henc⟩ := decodedBytesAreTheEncoding _ _ _ hdec
  have hfetched : fetchMany 3 s = encode c ++ rest := (fetchMany_three hop h1 h2).trans henc.symm
  have hlen : (encode c).length ≤ 3 := by
    have := congrArg List.length henc
    simp only [List.length_append, List.length_cons, List.length_nil] at this
    omega
  rw [← length_encode hwf, ← take_fetchMany hlen, hfetched, List.take_left]

/-- Settles O39: the encoding that the fetches return is the opcode and then the operand's bytes. -/
theorem fetchesReturnTheDecodedOperand : Obligations.FetchesReturnTheDecodedOperand := by
  intro s op b1 b2 c rest hop h1 h2 hdec
  exact List.cons.inj (fetchMany_eq_encode hop h1 h2 hdec)

/-! ### The step -/

/-- A running core that fetches an opcode of the table runs its instruction (R60, R63). -/
theorem step_of_opcode {s : State} {i : Instr} (hrun : s.run = .running) (hop : (fetch s).1 = i.opcode) :
    step s = exec i (fetch s).2 := by
  simp only [step, hrun, hop, decodeOpcode_opcode]

/-- Settles O38: the byte fetched is the opcode of the decoded instruction, which completes. -/
theorem stepRunsTheDecodedInstruction : Obligations.StepRunsTheDecodedInstruction := by
  intro s op b1 b2 c rest hrun hop h1 h2 hdec
  obtain ⟨hfetch, -⟩ := fetchesReturnTheDecodedOperand s op b1 b2 c rest hop h1 h2 hdec
  have hstep : step s = exec c.instr (s.ran 1 [.read s.pc op]) := by
    rw [step_of_opcode hrun hfetch, fetch_ran, hop, State.byte1]
  obtain ⟨t, ht, -⟩ := exec_busSteps c.instr (s.ran 1 [.read s.pc op])
  exact ⟨hstep, t, hstep.trans ht⟩

end Sys2Proof.Machine
end

section
/-! PROOF. Stores (41_stores.md): each is its mode's accesses, then one write of the register. -/

namespace Sys2Proof.Machine

theorem encodedAs_opcode (i : Instr) : encodedAs i i.opcode i.format := ⟨decodeOpcode_opcode i, rfl⟩

/-- A write after other transactions: one more transaction, and the stored byte. -/
theorem busWrite_ran (s : State) (n : Nat) (es : List BusEvent) (ea : Addr) (v : Byte) :
    busWrite ea v (s.ran n es) = { s.ran n (es ++ [.write ea v]) with ram := storeRam s.ram ea v } := by
  rw [busWrite_eq, ran_observe]
  rfl

/-- A store runs its addressing mode, which keeps the register, and writes the register at the address handed over. -/
theorem exec_store {i : Instr} {s : State} {ea : Addr} {n : Nat} {es : List BusEvent} (mode : State → Addr × State)
    (reg : State → Byte) (hexec : exec i s = .next (busWrite (mode s).1 (reg (mode s).2) (mode s).2))
    (hmode : mode s = (ea, s.ran n es)) (hreg : reg (s.ran n es) = reg s) :
    exec i s = .next { s.ran n (es ++ [.write ea (reg s)]) with ram := storeRam s.ram ea (reg s) } := by
  rw [hexec, hmode, hreg, busWrite_ran]

/-- Settles O16: `zeroPage` and `absolute` fetch the operand, and `exec_store` writes A, X or Y. -/
theorem plainStoresWriteTheRegister : Obligations.PlainStoresWriteTheRegister := by
  refine ⟨encodedAs_opcode .staZp, encodedAs_opcode .staAbs, encodedAs_opcode .stxZp, encodedAs_opcode .stxAbs,
    encodedAs_opcode .styZp, encodedAs_opcode .styAbs, fun s => ?_⟩
  simp only [List.forall_mem_cons]
  refine ⟨⟨?staZp, ?stxZp, ?styZp, by simp⟩, ?staAbs, ?stxAbs, ?styAbs, by simp⟩
  case staZp => exact exec_store zeroPage State.a rfl (zeroPage_eq s) rfl
  case stxZp => exact exec_store zeroPage State.x rfl (zeroPage_eq s) rfl
  case styZp => exact exec_store zeroPage State.y rfl (zeroPage_eq s) rfl
  case staAbs => exact exec_store absolute State.a rfl (absolute_eq s) rfl
  case stxAbs => exact exec_store absolute State.x rfl (absolute_eq s) rfl
  case styAbs => exact exec_store absolute State.y rfl (absolute_eq s) rfl

/-- Settles O18: `indirectY` reads the pointer and then, as a dummy, the final address, where `exec_store` writes A. -/
theorem staIndirectY : Obligations.StaIndirectY :=
  ⟨encodedAs_opcode .staIndY, fun s _ _ _ hlo hhi hea =>
    exec_store indirectY State.a rfl (indirectY_eq s hlo hhi hea) rfl⟩

end Sys2Proof.Machine
end

section
/-! PROOF. Loads (42_loads.md): each is its mode's accesses, then the byte into the register, and Z and N from it. -/

namespace Sys2Proof.Machine

theorem loadA_ran (v : Byte) (s : State) (n : Nat) (es : List BusEvent) :
    loadA v (s.ran n es) = { s.ran n es with a := v, p := setZN v s.p } := rfl

theorem loadX_ran (v : Byte) (s : State) (n : Nat) (es : List BusEvent) :
    loadX v (s.ran n es) = { s.ran n es with x := v, p := setZN v s.p } := rfl

theorem loadY_ran (v : Byte) (s : State) (n : Nat) (es : List BusEvent) :
    loadY v (s.ran n es) = { s.ran n es with y := v, p := setZN v s.p } := rfl

/-- The three loads of an addressing mode differ in the register alone: the mode reads the byte and keeps P, and then
the register, Z and N take it. -/
theorem exec_loads {lda ldx ldy : Instr} {s t : State} {v : Byte} {n : Nat} {es : List BusEvent}
    (mode : State → Byte × State) (hmode : mode s = (v, s.ran n es))
    (hlda : exec lda s = .next (loadA (mode s).1 (mode s).2))
    (hldx : exec ldx s = .next (loadX (mode s).1 (mode s).2))
    (hldy : exec ldy s = .next (loadY (mode s).1 (mode s).2))
    (ht : t = { s.ran n es with p := setZN v s.p }) :
    exec lda s = .next { t with a := v } ∧ exec ldx s = .next { t with x := v } ∧
      exec ldy s = .next { t with y := v } := by
  rw [hlda, hldx, hldy, hmode, loadA_ran, loadX_ran, loadY_ran, ht]
  exact ⟨rfl, rfl, rfl⟩

/-- Settles O19: the mode is `immediate`, which fetches the byte. -/
theorem immediateLoads : Obligations.ImmediateLoads :=
  ⟨encodedAs_opcode .ldaImm, encodedAs_opcode .ldxImm, encodedAs_opcode .ldyImm, fun s _ =>
    exec_loads immediate (immediate_eq s) rfl rfl rfl⟩

/-- Settles O20: the mode is `zeroPageValue`, which fetches the address and reads there. -/
theorem zeroPageLoads : Obligations.ZeroPageLoads :=
  ⟨encodedAs_opcode .ldaZp, encodedAs_opcode .ldxZp, encodedAs_opcode .ldyZp, fun s _ =>
    exec_loads zeroPageValue (zeroPageValue_eq s) rfl rfl rfl⟩

/-- Settles O21: the mode is `absoluteValue`, which fetches the address, low byte first, and reads there. -/
theorem absoluteLoads : Obligations.AbsoluteLoads :=
  ⟨encodedAs_opcode .ldaAbs, encodedAs_opcode .ldxAbs, encodedAs_opcode .ldyAbs, fun s _ =>
    exec_loads absoluteValue (absoluteValue_eq s) rfl rfl rfl⟩

end Sys2Proof.Machine
end

section
/-! PROOF. Transfers (43_transfers.md): each is the one read of implied addressing, then the register into the other. -/

namespace Sys2Proof.Machine

/-- An implied instruction has its effect on the state that the read at PC leaves (R77). -/
theorem exec_implied {i : Instr} {s : State} (effect : State → State)
    (hexec : exec i s = .next (effect (implied s))) :
    exec i s = .next (effect (s.ran 0 [.read s.pc s.byte1])) := by
  rw [hexec, implied_eq]

/-- Settles O23: the read keeps every register, so the effect `exec_implied` gives copies the register as it was; four
copy as a load does (`loadX_ran` and its like), and TXS sets SP alone. -/
theorem transfersCopyRegisters : Obligations.TransfersCopyRegisters := by
  refine ⟨encodedAs_opcode .tsx, encodedAs_opcode .tax, encodedAs_opcode .tay, encodedAs_opcode .tya,
    encodedAs_opcode .txs, ?_⟩
  rintro s _ rfl
  refine ⟨?tsx, ?tax, ?tay, ?tya, ?txs⟩
  case tsx => rw [exec_implied (fun u => loadX u.sp u) rfl, loadX_ran]; rfl
  case tax => rw [exec_implied (fun u => loadX u.a u) rfl, loadX_ran]; rfl
  case tay => rw [exec_implied (fun u => loadY u.a u) rfl, loadY_ran]; rfl
  case tya => rw [exec_implied (fun u => loadA u.y u) rfl, loadA_ran]; rfl
  case txs => exact exec_implied (fun u => u.setSp u.x) rfl

end Sys2Proof.Machine
end

section
/-! PROOF. Jumps and subroutines (44_jumps.md): a JSR is cut at its second fetch, which may read what its pushes stored. -/

namespace Sys2Proof.Machine

/-- The dummy read at the slot SP names moves that byte of WorkRAM (20_memory.md R49, R51). -/
theorem dummyStackRead_eq (s : State) :
    dummyStackRead s = s.observe [.read (stackAddr s.sp) (Memory.read s.ram (0x100 + s.sp.toNat))] := by
  rw [dummyStackRead, dummyRead_eq, readWith_stackAddr]

/-- Two pushes store at SP's slot and at the slot below it (20_memory.md R50). -/
theorem push_push_eq (s : State) (v w : Byte) :
    push w (push v s) =
      ((s.observe [.write (stackAddr s.sp) v, .write (stackAddr (s.sp - 1)) w]).setRam
        (Memory.write (Memory.write s.ram (0x100 + s.sp.toNat) v) (0x100 + (s.sp - 1).toNat) w)).setSp
      (s.sp - 2) := by
  have hsp : s.sp - 1 - 1 = s.sp - 2 := by bv_omega
  rw [push_eq w, push_ram, push_sp, storeRam_stackAddr, hsp, push_eq v, State.observe_setSp, State.observe_setRam,
    observe_append]
  rfl

/-- A JSR between its second push and its second fetch (44_jumps.md R131); PC names the third byte since the first fetch. -/
def State.jsrPushed (s : State) : State :=
  push (lowByte (s.pc + 1)) (push (highByte (s.pc + 1)) (dummyStackRead (fetch s).2))

/-- JSR is that, then the second fetch, which returns the target's high byte. -/
theorem exec_jsrAbs_eq (s : State) :
    exec .jsrAbs s = .next ((fetch s.jsrPushed).2.setPc (joinBytes (fetch s.jsrPushed).1 (fetch s).1)) := by
  have hpc : (dummyStackRead (fetch s).2).pc = s.pc + 1 := (busRead_pc _ _).trans (fetch_pc s)
  simp only [exec, execJsrAbs, push_pc, hpc, State.jsrPushed]

/-- The accesses of a JSR before its second fetch, and the WorkRAM and SP they leave. -/
theorem jsrPushed_eq {s : State} {ram : Memory}
    (hram : ram = Memory.write (Memory.write s.ram (0x100 + s.sp.toNat) (highByte (s.pc + 1)))
      (0x100 + (s.sp - 1).toNat) (lowByte (s.pc + 1))) :
    s.jsrPushed = ((s.ran 1 [.read s.pc s.byte1, .read (stackAddr s.sp) (Memory.read s.ram (0x100 + s.sp.toNat)),
      .write (stackAddr s.sp) (highByte (s.pc + 1)),
      .write (stackAddr (s.sp - 1)) (lowByte (s.pc + 1))]).setRam ram).setSp (s.sp - 2) := by
  rw [hram, State.jsrPushed, fetch_ran, dummyStackRead_eq, ran_observe, push_push_eq, ran_observe]
  rfl

/-- Settles O25: the second fetch reads in the state `jsrPushed_eq` gives, so from WorkRAM as the pushes left it and with
the low return byte in the latch. -/
theorem jsrPushesThenFetchesTheHighByte : Obligations.JsrPushesThenFetchesTheHighByte := by
  refine ⟨encodedAs_opcode .jsrAbs, ?_⟩
  rintro s _ ram _ hi rfl rfl hram hhi
  have hpushed := jsrPushed_eq hram
  have hbyte : s.jsrPushed.byte1 = hi := by
    rw [hpushed, hhi]
    rfl
  rw [exec_jsrAbs_eq, fetch_eq s, fetch_eq s.jsrPushed, hbyte, hpushed, State.observe_setSp, State.observe_setRam,
    ran_observe]
  rfl

end Sys2Proof.Machine
end

section
/-! PROOF. Increment and decrement (45_incdec.md): an index register is rewritten after implied addressing's read, and
INC is the read-modify-write of the zero page. -/

namespace Sys2Proof.Machine

/-- The read of implied addressing keeps X, so `f` is applied to X as it was; Z and N follow the result. -/
theorem exec_implied_loadX {i : Instr} {s : State} (f : Byte → Byte)
    (hexec : exec i s = .next (loadX (f (implied s).x) (implied s))) :
    exec i s = .next { s.ran 0 [.read s.pc s.byte1] with x := f s.x, p := setZN (f s.x) s.p } := by
  rw [exec_implied (fun u => loadX (f u.x) u) hexec, loadX_ran, State.ran_x]

/-- The read of implied addressing keeps Y, so `f` is applied to Y as it was; Z and N follow the result. -/
theorem exec_implied_loadY {i : Instr} {s : State} (f : Byte → Byte)
    (hexec : exec i s = .next (loadY (f (implied s).y) (implied s))) :
    exec i s = .next { s.ran 0 [.read s.pc s.byte1] with y := f s.y, p := setZN (f s.y) s.p } := by
  rw [exec_implied (fun u => loadY (f u.y) u) hexec, loadY_ran, State.ran_y]

/-- Settles O29: the read at PC keeps X and Y, and the register takes its value plus or minus one as a load does. -/
theorem indexIncrementsAndDecrements : Obligations.IndexIncrementsAndDecrements := by
  refine ⟨encodedAs_opcode .inx, encodedAs_opcode .iny, encodedAs_opcode .dex, encodedAs_opcode .dey, ?_⟩
  rintro s _ rfl
  refine ⟨?inx, ?iny, ?dex, ?dey⟩
  case inx => exact exec_implied_loadX (· + 1) rfl
  case iny => exact exec_implied_loadY (· + 1) rfl
  case dex => exact exec_implied_loadX (· - 1) rfl
  case dey => exact exec_implied_loadY (· - 1) rfl

/-- A read-modify-write of the zero page writes the byte back and then the operation's result `r`; P becomes `p`. -/
theorem exec_modifyZeroPage {i : Instr} {s : State} {v r p : Byte} (op : Byte → Byte → Byte × Byte)
    (hexec : exec i s = .next (modifyZeroPage op s)) (hv : v = s.zpValue) (hop : op s.p v = (r, p)) :
    exec i s = .next
      { s.ran 1 [.read s.pc s.byte1, .read s.zpAddr v, .write s.zpAddr v, .write s.zpAddr r] with
        ram := storeRam (storeRam s.ram s.zpAddr v) s.zpAddr r, p := p } := by
  rw [hexec, modifyZeroPage_eq op s hv, hop]

/-- Settles O30: INC is the read-modify-write whose operation is `incByte`. -/
theorem incRewritesThenIncrements : Obligations.IncRewritesThenIncrements :=
  ⟨encodedAs_opcode .incZp, fun _ _ hv => exec_modifyZeroPage incByte rfl hv rfl⟩

end Sys2Proof.Machine
end

section
/-! PROOF. Flag instructions (46_flags.md): implied addressing's read, then one bit of P by its mask (10_state.md R17). -/

namespace Sys2Proof.Machine

/-- The read of implied addressing keeps P, so the flag is written into P as it was. -/
theorem exec_implied_putFlag {i : Instr} {s : State} (f : Flag) (v : Bool)
    (hexec : exec i s = .next ((implied s).setP (putFlag f v (implied s).p))) :
    exec i s = .next { s.ran 0 [.read s.pc s.byte1] with p := putFlag f v s.p } :=
  exec_implied (fun u => u.setP (putFlag f v u.p)) hexec

/-- I is bit 2 of P (10_state.md R17). -/
theorem putFlag_i_true (p : Byte) : putFlag .i true p = p ||| 0x04 := rfl

/-- D is bit 3 of P (10_state.md R17), and the complement of its mask is 0xF7. -/
theorem putFlag_d_false (p : Byte) : putFlag .d false p = p &&& 0xF7 := rfl

/-- Settles O31: each is one `putFlag` after the read, and the flag's mask gives the byte of the rule. -/
theorem seiAndCldWriteOneFlag : Obligations.SeiAndCldWriteOneFlag := by
  refine ⟨encodedAs_opcode .sei, encodedAs_opcode .cld, fun s => ⟨?sei, ?cld⟩⟩
  case sei => rw [exec_implied_putFlag .i true rfl, putFlag_i_true]
  case cld => rw [exec_implied_putFlag .d false rfl, putFlag_d_false]

end Sys2Proof.Machine
end

section
/-! PROOF. Logic and compare (48_logic_compare.md): each reads one byte by its mode, which keeps A, Y and P, and then
A and its flags, or the flags alone, are written. -/

namespace Sys2Proof.Machine

/-- ORA and EOR: the mode reads the byte and keeps A, so `op` is applied to A as it was; the result is loaded into A. -/
theorem exec_combineA {i : Instr} {s : State} {v : Byte} {n : Nat} {es : List BusEvent} (op : Byte → Byte → Byte)
    (mode : State → Byte × State) (hexec : exec i s = .next (loadA (op (mode s).2.a (mode s).1) (mode s).2))
    (hmode : mode s = (v, s.ran n es)) :
    exec i s = .next { s.ran n es with a := op s.a v, p := setZN (op s.a v) s.p } := by
  rw [hexec, hmode, loadA_ran, State.ran_a]

/-- Settles O33: OR and exclusive OR, each with the byte of `immediate` and of `zeroPageValue`. -/
theorem oraAndEorCombineWithA : Obligations.OraAndEorCombineWithA := by
  refine ⟨encodedAs_opcode .oraImm, encodedAs_opcode .oraZp, encodedAs_opcode .eorImm, encodedAs_opcode .eorZp, ?_⟩
  rintro s _ _ _ _ rfl rfl rfl rfl
  refine ⟨?oraImm, ?eorImm, ?oraZp, ?eorZp⟩
  case oraImm => exact exec_combineA (· ||| ·) immediate rfl (immediate_eq s)
  case eorImm => exact exec_combineA (· ^^^ ·) immediate rfl (immediate_eq s)
  case oraZp => exact exec_combineA (· ||| ·) zeroPageValue rfl (zeroPageValue_eq s)
  case eorZp => exact exec_combineA (· ^^^ ·) zeroPageValue rfl (zeroPageValue_eq s)

/-- BIT, CMP and CPY: the mode reads the byte and keeps P and the register, and P alone is written, from the register,
the byte and P. -/
theorem exec_testReg {i : Instr} {s : State} {v : Byte} {n : Nat} {es : List BusEvent} (reg : State → Byte)
    (flags : Byte → Byte → Byte → Byte) (mode : State → Byte × State)
    (hexec : exec i s = .next ((mode s).2.setP (flags (reg (mode s).2) (mode s).1 (mode s).2.p)))
    (hmode : mode s = (v, s.ran n es)) (hreg : reg (s.ran n es) = reg s) :
    exec i s = .next { s.ran n es with p := flags (reg s) v s.p } := by
  rw [hexec, hmode, hreg, State.ran_p, State.setP]

/-- Settles O34: the flag law is `getFlag_bitFlags`, and A is tested with the byte of `zeroPageValue` or
`absoluteValue`. -/
theorem bitTestsMemoryAgainstA : Obligations.BitTestsMemoryAgainstA := by
  refine ⟨encodedAs_opcode .bitZp, encodedAs_opcode .bitAbs, fun a m p f => getFlag_bitFlags f a m p,
    fun s => ⟨?bitZp, ?bitAbs⟩⟩
  case bitZp => exact exec_testReg State.a bitFlags zeroPageValue rfl (zeroPageValue_eq s) rfl
  case bitAbs => exact exec_testReg State.a bitFlags absoluteValue rfl (absoluteValue_eq s) rfl

/-- Settles O35: the flag law is `getFlag_compareFlags`, whose `≤` on bytes compares their unsigned values. -/
theorem comparesFollowTheCompareLaw : Obligations.ComparesFollowTheCompareLaw := by
  refine ⟨encodedAs_opcode .cmpImm, encodedAs_opcode .cpyImm, fun l m p f => getFlag_compareFlags f l m p,
    fun s => ⟨?cmpImm, ?cpyImm⟩⟩
  case cmpImm => exact exec_testReg State.a compareFlags immediate rfl (immediate_eq s) rfl
  case cpyImm => exact exec_testReg State.y compareFlags immediate rfl (immediate_eq s) rfl

end Sys2Proof.Machine
end

section
/-! PROOF. Shifts (49_shifts.md): LSR and ROR rewrite a byte of the zero page, and differ in the bit moved in. -/

namespace Sys2Proof.Machine

/-- LSR moves 0 into bit 7 (R185). -/
theorem lsrByte_eq (p v : Byte) : lsrByte p v = (v >>> 1, setZN (v >>> 1) (putFlag .c (v.getLsbD 0) p)) := rfl

/-- ROR moves the carry of the old P into bit 7; the new P takes C from the old bit 0 (R186). -/
theorem rorByte_eq {p v q : Byte} (hq : q = (if getFlag .c p then 0x80 else 0x00) ||| (v >>> 1)) :
    rorByte p v = (q, setZN q (putFlag .c (v.getLsbD 0) p)) := by
  rw [hq]
  rfl

/-- Settles O36: by `exec_modifyZeroPage`, with the result and P that `lsrByte_eq` and `rorByte_eq` give. -/
theorem memoryShiftsMoveOneBitRight : Obligations.MemoryShiftsMoveOneBitRight := by
  refine ⟨encodedAs_opcode .lsrZp, encodedAs_opcode .rorZp, ?_⟩
  rintro s v _ q hv rfl hq
  refine ⟨?lsrZp, ?rorZp⟩
  case lsrZp => exact exec_modifyZeroPage lsrByte rfl hv (lsrByte_eq s.p v)
  case rorZp => exact exec_modifyZeroPage rorByte rfl hv (rorByte_eq hq)

end Sys2Proof.Machine
end

section
/-! PROOF. The opcode bytes (30_encoding.md R64), the examples (R67) and the value helpers (00_scope.md R6). -/

namespace Sys2Proof.Machine

/-- The bytes that decode are the opcodes of the table, in its order (30_encoding.md R64, R65). -/
theorem decodeOpcode_isSome_iff_mem (b : Byte) :
    (decodeOpcode b).isSome = true ↔ b ∈ Instr.all.map Instr.opcode := by
  simp [decodeOpcode, List.find?_isSome]

/-- Settles O3: a row is an instruction's own opcode and format, and the list is the opcode column. -/
theorem opcodeMapIsTheTable : Obligations.OpcodeMapIsTheTable := by
  unfold Obligations.OpcodeMapIsTheTable
  iterate 53 refine ⟨encodedAs_opcode _, ?_⟩
  exact decodeOpcode_isSome_iff_mem

/-- Settles O4: the bytes of nine examples are encodings, which decode to what they encode. -/
theorem exampleBytesDecodeAsWritten : Obligations.ExampleBytesDecodeAsWritten := by
  have hdec := encodeThenDecodeReturnsTheInstruction
  exact ⟨hdec ⟨.inx, .none⟩ [0xEA] rfl, hdec ⟨.rorAcc, .none⟩ [] rfl, hdec ⟨.ldaImm, .imm8 0x42⟩ [] rfl,
    hdec ⟨.staZp, .zp8 0x10⟩ [] rfl, hdec ⟨.staZpx, .zp8 0x10⟩ [] rfl, hdec ⟨.staIndY, .ptr8 0x20⟩ [] rfl,
    hdec ⟨.bne, .off8 0xFA⟩ [] rfl, hdec ⟨.jmpAbs, .addr16 0xC004⟩ [] rfl, hdec ⟨.staAbx, .addr16 0x0300⟩ [] rfl,
    rfl, rfl⟩

/-- `hi:lo` is `hi * 256 + lo` (00_scope.md R6). -/
theorem joinBytes_toNat (hi lo : Byte) : (joinBytes hi lo).toNat = hi.toNat * 256 + lo.toNat := by
  rw [joinBytes, BitVec.toNat_append, ← Nat.shiftLeft_add_eq_or_of_lt lo.isLt, Nat.shiftLeft_eq]

theorem zext16_eq_joinBytes (b : Byte) : zext16 b = joinBytes 0x00 b := by
  apply BitVec.eq_of_toNat_eq
  rw [joinBytes_toNat, zext16, BitVec.toNat_setWidth_of_le (by decide)]
  simp

/-- Sign extension of a byte with bit 7 clear. -/
theorem sext16_of_nonneg {b : Byte} (h : b.getLsbD 7 = false) : sext16 b = zext16 b :=
  BitVec.signExtend_eq_setWidth_of_msb_false h

/-- Sign extension of a byte with bit 7 set. -/
theorem sext16_of_neg {b : Byte} (h : b.getLsbD 7 = true) : sext16 b = 0xFF00 + zext16 b := by
  have hmsb : b.msb = true := h
  apply BitVec.eq_of_toNat_eq
  have hb := b.isLt
  rw [sext16, zext16, BitVec.toNat_signExtend, hmsb, BitVec.toNat_add, BitVec.toNat_setWidth_of_le (by decide)]
  simp
  omega

/-- Settles O5: `hi:lo` by the value of appended bits, and the two extensions by theirs. -/
theorem byteHelpersFollowTheNotation : Obligations.ByteHelpersFollowTheNotation :=
  ⟨joinBytes_toNat, joinBytes_high_low, fun b => ⟨zext16_eq_joinBytes b, sext16_of_nonneg, sext16_of_neg⟩⟩

end Sys2Proof.Machine
end

section
/-! PROOF. Stack instructions (40_stack.md): after implied addressing's read, a push, or a dummy read of SP's slot and
pulls. -/

namespace Sys2Proof.Machine

/-- A push after other transactions: one more transaction, the stored byte, and SP one lower. -/
theorem push_ran (v : Byte) (s : State) (n : Nat) (es : List BusEvent) :
    push v (s.ran n es) = { s.ran n (es ++ [.write (stackAddr s.sp) v]) with
      sp := s.sp - 1, ram := Memory.write s.ram (0x100 + s.sp.toNat) v } := by
  rw [push_eq, storeRam_stackAddr, ran_observe]
  rfl

/-- A pull after other transactions: one more transaction, and SP one higher than it was set to. -/
theorem pull_ran_setSp (s : State) (n : Nat) (es : List BusEvent) (sp : Byte) {v : Byte}
    (hv : v = Memory.read s.ram (0x100 + (sp + 1).toNat)) :
    pull ((s.ran n es).setSp sp) = (v, (s.ran n (es ++ [.read (stackAddr (sp + 1)) v])).setSp (sp + 1)) := by
  rw [pull_eq, readWith_stackAddr, State.observe_setSp, ran_observe, hv]
  rfl

/-- The first pull of PLA, PLP and RTS: before it, implied addressing's read and a read of the old SP's slot (R51). -/
theorem pull_dummyStackRead_implied (s : State) {old v : Byte} (hold : old = Memory.read s.ram (0x100 + s.sp.toNat))
    (hv : v = Memory.read s.ram (0x100 + (s.sp + 1).toNat)) :
    pull (dummyStackRead (implied s)) = (v,
      (s.ran 0 [.read s.pc s.byte1, .read (stackAddr s.sp) old, .read (stackAddr (s.sp + 1)) v]).setSp (s.sp + 1)) := by
  rw [implied_eq, dummyStackRead_eq, ran_observe, State.ran_ram, State.ran_sp, ← hold]
  exact pull_ran_setSp s 0 _ s.sp hv

/-- Settles O14: the read keeps A, P and SP, so `push_ran` stores them as they were. -/
theorem phpAndPhaPush : Obligations.PhpAndPhaPush := by
  refine ⟨encodedAs_opcode .php, encodedAs_opcode .pha, fun s => ⟨?php, ?pha⟩⟩
  case php => rw [exec_implied (fun u => push u.p u) rfl, push_ran]; rfl
  case pha => rw [exec_implied (fun u => push u.a u) rfl, push_ran]; rfl

/-- Settles O15: both write what `pull_dummyStackRead_implied` returns, PLA into A with Z and N, PLP into P. -/
theorem plaAndPlpPull : Obligations.PlaAndPlpPull := by
  refine ⟨encodedAs_opcode .pla, encodedAs_opcode .plp, fun s old v hold hv => ?_⟩
  simp only [exec, execPla, execPlp, pull_dummyStackRead_implied s hold hv]
  exact ⟨rfl, rfl⟩

/-- The slot an SP value names holds byte `0x100 + SP` of WorkRAM (20_memory.md R49). -/
theorem byteAt_stackAddr (s : State) (sp : Byte) :
    s.byteAt (stackAddr sp) = some (Memory.read s.ram (0x100 + sp.toNat)) := by
  have haddr := stackAddr_toNat sp
  have hslot : (stackAddr sp).toNat % 2048 = 0x100 + sp.toNat := by omega
  rw [byteAt_of_ram s (by omega), hslot]

/-- Settles O28: the slot holds P after the PHP, and PLP pulls whatever byte the slot holds. -/
theorem plpRestoresWhatPhpPushed : Obligations.PlpRestoresWhatPhpPushed := by
  intro s hwf
  obtain ⟨-, -, hpush⟩ := phpAndPhaPush
  obtain ⟨hphp, -⟩ := hpush s
  refine ⟨_, hphp, ?_, fun u hsp hslot => ?_⟩
  · rw [byteAt_stackAddr, Memory.read_write_same hwf]
  · obtain ⟨-, -, hpull⟩ := plaAndPlpPull
    obtain ⟨-, hplp⟩ := hpull u _ _ rfl rfl
    have hback : u.sp + 1 = s.sp := by
      rw [hsp]
      bv_omega
    refine ⟨_, hplp, ?_, hback⟩
    rw [byteAt_stackAddr, byteAt_stackAddr, Memory.read_write_same hwf] at hslot
    rw [hback]
    exact Option.some.inj hslot

end Sys2Proof.Machine
end

section
/-! PROOF. Stores (41_stores.md): STA indexed by X. -/

namespace Sys2Proof.Machine

/-- Settles O17: `zeroPageX` and `absoluteX` read the unindexed address, and `exec_store` writes A at the sum with X. -/
theorem staIndexedByX : Obligations.StaIndexedByX := by
  refine ⟨encodedAs_opcode .staZpx, encodedAs_opcode .staAbx, fun s => ⟨?staZpx, ?staAbx⟩⟩
  case staZpx => exact exec_store zeroPageX State.a rfl (zeroPageX_eq s) rfl
  case staAbx => exact exec_store absoluteX State.a rfl (absoluteX_eq s) rfl

end Sys2Proof.Machine
end

section
/-! PROOF. Jumps and subroutines (44_jumps.md): JMP, RTS, and the return to after a JSR. -/

namespace Sys2Proof.Machine

/-- Settles O24: PC takes the address that `absolute` fetches. -/
theorem jmpLoadsTheProgramCounter : Obligations.JmpLoadsTheProgramCounter := by
  refine ⟨encodedAs_opcode .jmpAbs, fun s => ?_⟩
  simp only [exec, execJmpAbs, absolute_eq]
  rfl

/-- Settles O26: the second pull is from one slot higher, and the last read is at the address pulled. -/
theorem rtsPullsTheReturnAddress : Obligations.RtsPullsTheReturnAddress := by
  refine ⟨encodedAs_opcode .rts, fun s old lo hi hold hlo hhi => ?_⟩
  have hsp : s.sp + 1 + 1 = s.sp + 2 := by bv_omega
  rw [← hsp] at hhi ⊢
  simp only [exec, execRts, pull_dummyStackRead_implied s hold hlo, pull_ran_setSp s 0 _ (s.sp + 1) hhi, dummyRead_eq,
    State.observe_setPc, State.observe_setSp, ran_observe]
  rw [ran_zero]
  rfl

/-- Settles O27: the slots hold the return address after the JSR, and RTS pulls whatever address the slots hold. -/
theorem rtsReturnsAfterTheJsr : Obligations.RtsReturnsAfterTheJsr := by
  intro s hwf
  obtain ⟨-, hjsr⟩ := jsrPushesThenFetchesTheHighByte
  obtain ⟨-, hrts⟩ := rtsPullsTheReturnAddress
  have hne : 0x100 + s.sp.toNat ≠ 0x100 + (s.sp - 1).toNat := by bv_omega
  have hwf' := Memory.wf_write hwf (0x100 + s.sp.toNat) (highByte (s.pc + 1))
  refine ⟨_, hjsr s _ _ _ _ rfl rfl rfl rfl, ?_, ?_, fun u hsp hhigh hlow => ?_⟩
  · rw [byteAt_stackAddr, Memory.read_write_other hne, Memory.read_write_same hwf]
  · rw [byteAt_stackAddr, Memory.read_write_same hwf']
  · have hslotLow : u.sp + 1 = s.sp - 1 := by
      rw [hsp]
      bv_omega
    have hslotHigh : u.sp + 2 = s.sp := by
      rw [hsp]
      bv_omega
    rw [byteAt_stackAddr, byteAt_stackAddr, Memory.read_write_other hne, Memory.read_write_same hwf,
      ← hslotHigh] at hhigh
    rw [byteAt_stackAddr, byteAt_stackAddr, Memory.read_write_same hwf', ← hslotLow] at hlow
    refine ⟨_, hrts u _ _ _ rfl rfl rfl, ?_, hslotHigh⟩
    rw [Option.some.inj hhigh, Option.some.inj hlow, joinBytes_high_low, BitVec.add_assoc]
    rfl

end Sys2Proof.Machine
end

section
/-! PROOF. Branches (47_branches.md): the common sequence, cut at its two conditions. -/

namespace Sys2Proof.Machine

/-- The common sequence (R155): the offset is fetched; taken, PC goes to the target, and a change of page costs a read
there. -/
theorem branch_eq (cond : Byte → Bool) (s : State) :
    branch cond s = if cond s.p then
        if highByte s.branchTarget ≠ highByte (s.pc + 1) then
          { s.observe [.read s.pc s.byte1, .read s.branchTarget (s.readWith s.byte1 s.branchTarget)] with
            pc := s.branchTarget }
        else { s.observe [.read s.pc s.byte1] with pc := s.branchTarget }
      else s.ran 1 [.read s.pc s.byte1] := by
  simp only [branch, relative_eq, dummyRead_eq, State.observe_setPc, ran_observe]
  rfl

/-- The same by its three outcomes, for an instruction that is the sequence on a condition. -/
theorem exec_branch {i : Instr} {s : State} (cond : Byte → Bool) (hexec : exec i s = .next (branch cond s)) :
    (cond s.p = false → exec i s = .next (s.ran 1 [.read s.pc s.byte1])) ∧
    (cond s.p = true → highByte s.branchTarget = highByte (s.pc + 1) →
      exec i s = .next { s.observe [.read s.pc s.byte1] with pc := s.branchTarget }) ∧
    (cond s.p = true → highByte s.branchTarget ≠ highByte (s.pc + 1) →
      exec i s = .next
        { s.observe [.read s.pc s.byte1, .read s.branchTarget (s.readWith s.byte1 s.branchTarget)] with
          pc := s.branchTarget }) := by
  rw [hexec, branch_eq]
  refine ⟨fun hc => ?_, fun hc hpage => ?_, fun hc hpage => ?_⟩
  · rw [hc, if_neg Bool.false_ne_true]
  · rw [if_pos hc, if_neg (not_not_intro hpage)]
  · rw [if_pos hc, if_pos hpage]

/-- Settles O32: each branch is the common sequence on its own condition. -/
theorem branchesFollowTheCommonSequence : Obligations.BranchesFollowTheCommonSequence := by
  refine ⟨encodedAs_opcode .bne, encodedAs_opcode .beq, encodedAs_opcode .bpl, encodedAs_opcode .bmi,
    encodedAs_opcode .bcc, fun s i taken hi => ?_⟩
  simp only [List.mem_cons, List.not_mem_nil, or_false, Prod.mk.injEq] at hi
  rcases hi with ⟨rfl, rfl⟩ | ⟨rfl, rfl⟩ | ⟨rfl, rfl⟩ | ⟨rfl, rfl⟩ | ⟨rfl, rfl⟩
  case _ => exact exec_branch (fun p => !getFlag .z p) rfl
  case _ => exact exec_branch (fun p => getFlag .z p) rfl
  case _ => exact exec_branch (fun p => !getFlag .n p) rfl
  case _ => exact exec_branch (fun p => getFlag .n p) rfl
  case _ => exact exec_branch (fun p => !getFlag .c p) rfl

end Sys2Proof.Machine
end

section
/-! PROOF. Shifts (49_shifts.md): ROR accumulator, as a rotation of the nine bits of C and A. -/

namespace Sys2Proof.Machine

/-- ROR A is one read, and `rorByte` on P and A (R187). -/
theorem exec_rorAcc {s : State} {r : Byte} (hr : r = (if getFlag .c s.p then 0x80 else 0x00) ||| (s.a >>> 1)) :
    exec .rorAcc s = .next { s.ran 0 [.read s.pc s.byte1] with
      a := r, p := setZN r (putFlag .c (s.a.getLsbD 0) s.p) } := by
  rw [exec_implied (fun u => (u.setA (rorByte u.p s.a).1).setP (rorByte u.p s.a).2) rfl, State.ran_p, rorByte_eq hr]
  rfl

/-- C and A as one word, C in bit 8: the nine bits that ROR A rotates. -/
def State.carryA (s : State) : BitVec 9 := BitVec.cons (getFlag .c s.p) s.a

theorem carryA_bit (s : State) (k : Nat) :
    s.carryA.getLsbD k = if k = 8 then getFlag .c s.p else s.a.getLsbD k := by
  rw [State.carryA, BitVec.getLsbD_cons]

/-- One ROR A moves each of the nine bits one place down, and the lowest to the top. -/
theorem exec_rorAcc_rotates (s : State) :
    ∃ t, exec .rorAcc s = .next t ∧ ∀ k < 9, t.carryA.getLsbD k = s.carryA.getLsbD ((k + 1) % 9) := by
  refine ⟨_, exec_rorAcc rfl, fun k hk => ?_⟩
  simp only [carryA_bit, getFlag_setZN_other (g := .c) nofun nofun, getFlag_putFlag_same]
  cases getFlag .c s.p <;> interval_cases k <;> simp

/-- So `n` of them move each bit `n` places around. -/
theorem execTimes_rorAcc_rotates (n : Nat) (s : State) :
    ∃ t, execTimes n .rorAcc s = .next t ∧ ∀ k < 9, t.carryA.getLsbD k = s.carryA.getLsbD ((k + n) % 9) := by
  induction n generalizing s with
  | zero => exact ⟨s, rfl, fun k hk => by rw [Nat.add_zero, Nat.mod_eq_of_lt hk]⟩
  | succ n ih =>
    obtain ⟨u, hu, hfirst⟩ := exec_rorAcc_rotates s
    obtain ⟨t, ht, hrest⟩ := ih u
    refine ⟨t, by simp only [execTimes, hu, ht], fun k hk => ?_⟩
    rw [hrest k hk, hfirst _ (Nat.mod_lt _ (by decide)), Nat.mod_add_mod, Nat.add_assoc]

/-- Settles O37: nine rotations of nine bits leave each where it was, C in bit 8 and A below. -/
theorem rorAccumulatorIsANineBitRotation : Obligations.RorAccumulatorIsANineBitRotation := by
  refine ⟨encodedAs_opcode .rorAcc, fun s r => exec_rorAcc, fun s => ?_⟩
  obtain ⟨t, ht, hbits⟩ := execTimes_rorAcc_rotates 9 s
  have hsame : ∀ k < 9, t.carryA.getLsbD k = s.carryA.getLsbD k := fun k hk => by
    rw [hbits k hk, Nat.add_mod_right, Nat.mod_eq_of_lt hk]
  refine ⟨t, ht, BitVec.eq_of_getLsbD_eq fun k hk => ?_, ?_⟩
  · simpa only [carryA_bit, Nat.ne_of_lt hk, if_false] using hsame k (by omega)
  · simpa only [carryA_bit, if_true] using hsame 8 (by decide)

end Sys2Proof.Machine
end

section
/-! PROOF. Exceptions (60_exceptions.md): a running core stops on an opcode byte outside the table, and on nothing
else. -/

namespace Sys2Proof.Machine

/-- A byte that is no instruction's opcode decodes to nothing (30_encoding.md R65). -/
theorem decodeOpcode_eq_none {op : Byte} (h : ∀ i : Instr, i.opcode ≠ op) : decodeOpcode op = none := by
  cases hop : decodeOpcode op with
  | none => rfl
  | some i => exact absurd (opcode_of_decodeOpcode hop) (h i)

/-- Settles O40: after the fetch nothing decodes, and `raiseFatal` sets the run state alone. -/
theorem unimplementedOpcodeStopsTheCore : Obligations.UnimplementedOpcodeStopsTheCore := by
  rintro s _ hrun rfl hno
  simp only [step, hrun, fetch_ran]
  rw [State.byte1, decodeOpcode_eq_none hno]
  rfl

/-- Every instruction completes, in every state (R200). -/
theorem exec_completes (i : Instr) (s : State) : ∃ t, exec i s = .next t := by
  obtain ⟨t, ht, -⟩ := exec_busSteps i s
  exact ⟨t, ht⟩

/-- Settles O41: the byte at PC is an instruction's opcode, and the step completes with that instruction, or it is none,
and the step is the stop of `unimplementedOpcodeStopsTheCore`. -/
theorem nothingElseStopsTheCore : Obligations.NothingElseStopsTheCore := by
  refine ⟨exec_completes, fun s hrun => ?_⟩
  by_cases hop : ∃ i : Instr, i.opcode = s.readWith s.latch s.pc
  case pos =>
    obtain ⟨i, hi⟩ := hop
    obtain ⟨t, ht⟩ := exec_completes i (fetch s).2
    have hfetched : (fetch s).1 = i.opcode := (congrArg Prod.fst (fetch_eq s)).trans hi.symm
    have hstep : step s = .next t := (step_of_opcode hrun hfetched).trans ht
    rw [hstep]
    exact ⟨⟨fun _ => ⟨i, hi⟩, fun _ => ⟨t, rfl⟩⟩, nofun, nofun⟩
  case neg =>
    have hstep := unimplementedOpcodeStopsTheCore s _ hrun rfl (not_exists.1 hop)
    rw [hstep]
    refine ⟨⟨nofun, fun h => absurd h hop⟩, fun f hf => ?_, nofun⟩
    cases hf
    exact ⟨_, rfl⟩

/-- Settles O42: a stopped core's step is its stop, with the state as it is. -/
theorem aStoppedCoreStaysStopped : Obligations.AStoppedCoreStaysStopped := by
  intro s op hrun
  simp only [step, hrun]

end Sys2Proof.Machine
end

section
/-! PROOF. Power-on and reset (70_reset_and_hazards.md): a valid launch's parameters are the bytes of the block, and the
reset sequence reads the vector in the last bank. -/

namespace Sys2Proof.Machine

/-- Settles O44: by `resetSequence_eq`, where setting I is or-ing its mask. -/
theorem resetSequenceReadsTheVector : Obligations.ResetSequenceReadsTheVector := by
  intro s lo hi _ hlo hhi
  rw [resetSequence_eq s hlo hhi, putFlag_i_true]

/-- Settles O46: the step of a core that has not run is the reset sequence. -/
theorem theFirstStepIsTheResetSequence : Obligations.TheFirstStepIsTheResetSequence := by
  intro s hrun
  simp only [step, hrun]

/-- What a valid launch's parameters satisfy (00_scope.md R5). -/
theorem valid_iff {l : Config.Launch} : l.valid = true ↔
    l.prgBanks ≠ [] ∧ (∀ b ∈ l.prgBanks, b.length = 16384) ∧ l.ramInit.length = 2048 ∧
      l.powerOnP.getLsbD 5 = true := by
  simp [Config.Launch.valid, and_assoc]

/-- A valid launch powers on the block whose cartridge holds its banks (R220, R225). -/
theorem launch_eq {l : Config.Launch} (hl : l.valid = true) {earlier : List (List Byte)} {bank : List Byte}
    (hbanks : l.prgBanks = earlier ++ [bank]) :
    launch l = .next (State.powerOn l (.fixedBank (earlier.map (Memory.ofBytes 0)) (Memory.ofBytes 0 bank))) := by
  simp [launch, hl, hbanks, Mapper.ofBanks]

/-- Storage built from index 0 up reads as the bytes supplied. -/
theorem read_ofBytes_zero {bs : List Byte} {k : Nat} (hk : k < bs.length) :
    Memory.read (Memory.ofBytes 0 bs) k = bs.getD k 0 := by
  simpa only [Nat.zero_add] using Memory.read_ofBytes bs 0 k hk

/-- So does each bank of a list. -/
theorem read_map_ofBytes {banks : List (List Byte)} {n k : Nat} (hn : n < banks.length) (hk : k < banks[n].length) :
    Memory.read ((banks.map (Memory.ofBytes 0)).getD n []) k = (banks.getD n []).getD k 0 := by
  rw [List.getD_eq_getElem _ _ (by rwa [List.length_map]), List.getElem_map, List.getD_eq_getElem _ _ hn,
    read_ofBytes_zero hk]

/-- Settles O43: a bank list that is not empty has a last bank, and storage reads as the bytes supplied. -/
theorem powerOnStateIsAsSupplied : Obligations.PowerOnStateIsAsSupplied := by
  intro l hl
  obtain ⟨hne, hlen, hram, hbit⟩ := valid_iff.1 hl
  obtain ⟨earlier, bank, hbanks⟩ := (List.eq_nil_or_concat' l.prgBanks).resolve_left hne
  have hmap : earlier.map (Memory.ofBytes 0) ++ [Memory.ofBytes 0 bank] = l.prgBanks.map (Memory.ofBytes 0) := by
    simp [hbanks]
  refine ⟨_, _, _, launch_eq hl hbanks, rfl, rfl, rfl, rfl, rfl, rfl, hbit, rfl, rfl, rfl, rfl,
    fun k hk => read_ofBytes_zero (hram ▸ hk), rfl, ?_, fun n k hn hk => ?_⟩
  · rw [hmap, List.length_map]
  · rw [hmap, read_map_ofBytes hn (hlen _ (List.getElem_mem hn) ▸ hk)]

/-- From 0xC000 up the cartridge serves its last bank (20_memory.md R37). -/
theorem cart_read_last (earlier : List Bank) (last : Bank) {q : Addr} (hq : 0xC000 ≤ q.toNat) :
    Cartridge.read ⟨.fixedBank earlier last⟩ q = some (Memory.read last (q.toNat - 0xC000)) := by
  simp [Cartridge.read, Mapper.read, inCart, hq]

/-- The reset sequence of a block just powered on gives the state R222 lists. -/
theorem resetSequence_powerOn (l : Config.Launch) (earlier : List Bank) (last : Bank) :
    resetSequence (State.powerOn l (.fixedBank earlier last)) = State.afterReset l earlier last := by
  have hread (q : Addr) (hq : 0xC000 ≤ q.toNat) (latch : Byte) :
      (State.powerOn l (.fixedBank earlier last)).readWith latch q = Memory.read last (q.toNat - 0xC000) :=
    (readWith_of_cart _ hq latch).trans (congrArg (Option.getD · 0) (cart_read_last earlier last hq))
  rw [resetSequence_eq _ (hread 0xFFFC (by decide) _).symm (hread 0xFFFD (by decide) _).symm]
  apply State.ext
  case sp => simp only [State.powerOn, State.afterReset]; decide
  all_goals rfl

/-- Settles O45: the state of `resetSequence_powerOn`, with its storage read as the bytes supplied. -/
theorem stateAfterPowerOnReset : Obligations.StateAfterPowerOnReset := by
  intro l earlier bank hl hbanks
  obtain ⟨-, hlen, hram, -⟩ := valid_iff.1 hl
  have hbank (k : Nat) (hk : k < 16384) : Memory.read (Memory.ofBytes 0 bank) k = bank.getD k 0 :=
    read_ofBytes_zero (hlen bank (by simp [hbanks]) ▸ hk)
  refine ⟨_, _, launch_eq hl hbanks, resetSequence_powerOn l _ _, rfl, rfl, rfl, rfl, rfl, ?pc, hbank _ (by decide),
    fun k hk => read_ofBytes_zero (hram ▸ hk), rfl, rfl, ?cart, rfl, ?trace⟩
  case pc => simp only [State.afterReset, hbank 0x3FFC (by decide), hbank 0x3FFD (by decide)]
  case cart =>
    intro k hk
    have haddr : (0xC000 + BitVec.ofNat 16 k : Addr).toNat = 0xC000 + k := by bv_omega
    exact (cart_read_last _ _ (by omega)).trans (by rw [haddr, Nat.add_sub_cancel_left, hbank k hk])
  case trace => simp only [State.afterReset, hbank 0x3FFC (by decide), hbank 0x3FFD (by decide)]

/-- Settles O47: the blank launch's zero bytes list no cell, and the rest of `State.afterReset` is computed. -/
theorem resetStateIsTheBlankLaunch : Obligations.ResetStateIsTheBlankLaunch := by
  have hvalid : Config.Launch.blank.valid = true := by
    simp [valid_iff, Config.Launch.blank]
  refine ⟨hvalid, _, launch_eq hvalid (earlier := []) rfl, ?_⟩
  rw [resetSequence_powerOn, Memory.ofBytes_replicate, State.afterReset, Config.Launch.blank, Memory.ofBytes_replicate]
  rfl

end Sys2Proof.Machine
end

section
/-! PROOF. Bus accesses counted (70_reset_and_hazards.md R229): each operation's, and so each instruction's. -/

namespace Sys2Proof.Machine

/-- `t` follows from `s` by `n` bus accesses, each of them in the trace. -/
def AccessSteps (n : Nat) (s t : State) : Prop := t.trace.length = s.trace.length + n

namespace AccessSteps

variable {n : Nat} {s t : State}

theorem refl (s : State) : AccessSteps 0 s s := rfl

/-- Each transaction is one access more. -/
theorem observe (h : AccessSteps n s t) (es : List BusEvent) : AccessSteps (n + es.length) s (t.observe es) := by
  rw [AccessSteps, State.observe_trace, List.length_append, h, Nat.add_assoc]

theorem setPc (h : AccessSteps n s t) (v : Addr) : AccessSteps n s (t.setPc v) := h

theorem setP (h : AccessSteps n s t) (v : Byte) : AccessSteps n s (t.setP v) := h

theorem busRead (h : AccessSteps n s t) (q : Addr) : AccessSteps (n + 1) s (busRead q t).2 := by
  rw [busRead_eq]
  exact h.observe [_]

theorem busWrite (h : AccessSteps n s t) (q : Addr) (v : Byte) : AccessSteps (n + 1) s (busWrite q v t) := by
  rw [busWrite_eq]
  exact h.observe [_]

theorem fetch (h : AccessSteps n s t) : AccessSteps (n + 1) s (fetch t).2 := h.busRead t.pc

theorem implied (h : AccessSteps n s t) : AccessSteps (n + 1) s (implied t) := h.busRead t.pc

theorem push (h : AccessSteps n s t) (v : Byte) : AccessSteps (n + 1) s (push v t) := h.busWrite _ v

theorem pull (h : AccessSteps n s t) : AccessSteps (n + 1) s (pull t).2 :=
  AccessSteps.busRead (t := t.setSp (t.sp + 1)) h _

theorem dummyStackRead (h : AccessSteps n s t) : AccessSteps (n + 1) s (dummyStackRead t) := h.busRead _

theorem zeroPage (h : AccessSteps n s t) : AccessSteps (n + 1) s (zeroPage t).2 := h.fetch

theorem absolute (h : AccessSteps n s t) : AccessSteps (n + 2) s (absolute t).2 := h.fetch.fetch

theorem zeroPageX (h : AccessSteps n s t) : AccessSteps (n + 2) s (zeroPageX t).2 := h.fetch.busRead _

theorem absoluteX (h : AccessSteps n s t) : AccessSteps (n + 3) s (absoluteX t).2 := h.absolute.busRead _

theorem indirectY (h : AccessSteps n s t) : AccessSteps (n + 4) s (indirectY t).2 :=
  ((h.fetch.busRead _).busRead _).busRead _

theorem zeroPageValue (h : AccessSteps n s t) : AccessSteps (n + 2) s (zeroPageValue t).2 := h.zeroPage.busRead _

theorem absoluteValue (h : AccessSteps n s t) : AccessSteps (n + 3) s (absoluteValue t).2 := h.absolute.busRead _

theorem modifyZeroPage (h : AccessSteps n s t) (op : Byte → Byte → Byte × Byte) :
    AccessSteps (n + 4) s (modifyZeroPage op t) :=
  (((h.zeroPage.busRead _).busWrite _ _).busWrite _ _).setP _

end AccessSteps

/-- The high byte counts pages. -/
theorem highByte_eq_iff (v w : Addr) : highByte v = highByte w ↔ v.toNat / 256 = w.toNat / 256 := by
  have hpage (v : Addr) : (highByte v).toNat = v.toNat / 256 := by
    have := v.isLt
    rw [highByte, BitVec.extractLsb'_toNat, Nat.shiftRight_eq_div_pow, Nat.mod_eq_of_lt (by omega)]
  rw [← BitVec.toNat_inj, hpage, hpage]

theorem branchCrosses_iff (i : Instr) (s : State) : branchCrosses i s = true ↔
    branchTaken i s.p = true ∧ highByte s.branchTarget ≠ highByte (s.pc + 1) := by
  rw [branchCrosses, Bool.and_eq_true, bne_iff_ne, ne_eq, ne_eq, highByte_eq_iff]

/-- A branch makes its fetch, and one access more exactly when it is taken to another page (decision D7). -/
theorem exec_branch_accessSteps {i : Instr} {s : State} {cond : Byte → Bool} (hexec : exec i s = .next (branch cond s))
    (hcond : branchTaken i s.p = cond s.p) (haccesses : accesses i s = if branchCrosses i s then 3 else 2) :
    ∃ t n, exec i s = .next t ∧ AccessSteps n s t ∧ n + 1 = accesses i s := by
  obtain ⟨hnot, hpage, hcross⟩ := exec_branch cond hexec
  have r := AccessSteps.refl s
  rw [← hcond] at hnot hpage hcross
  rw [haccesses]
  by_cases h : branchCrosses i s = true
  · obtain ⟨htaken, hne⟩ := (branchCrosses_iff i s).1 h
    exact ⟨_, 2, hcross htaken hne, r.observe _, (if_pos h).symm⟩
  · cases htaken : branchTaken i s.p with
    | false => exact ⟨_, 1, hnot htaken, r.observe _, (if_neg h).symm⟩
    | true =>
      have hsame : highByte s.branchTarget = highByte (s.pc + 1) :=
        not_not.1 fun hne => h ((branchCrosses_iff i s).2 ⟨htaken, hne⟩)
      exact ⟨_, 1, hpage htaken hsame, r.observe _, (if_neg h).symm⟩

/-- Each instruction makes the accesses of its mode and of its own sequence; the opcode fetch is one more. -/
theorem exec_accessSteps (i : Instr) (s : State) :
    ∃ t n, exec i s = .next t ∧ AccessSteps n s t ∧ n + 1 = accesses i s := by
  have r := AccessSteps.refl s
  cases i
  case tsx | tax | tay | tya | txs | inx | iny | dex | dey | sei | cld | rorAcc => exact ⟨_, _, rfl, r.implied, rfl⟩
  case ldaImm | ldxImm | ldyImm | oraImm | eorImm | cmpImm | cpyImm => exact ⟨_, _, rfl, r.fetch, rfl⟩
  case ldaZp | ldxZp | ldyZp | oraZp | eorZp | bitZp => exact ⟨_, _, rfl, r.zeroPageValue, rfl⟩
  case ldaAbs | ldxAbs | ldyAbs | bitAbs => exact ⟨_, _, rfl, r.absoluteValue, rfl⟩
  case staZp | stxZp | styZp => exact ⟨_, _, rfl, r.zeroPage.busWrite _ _, rfl⟩
  case staAbs | stxAbs | styAbs => exact ⟨_, _, rfl, r.absolute.busWrite _ _, rfl⟩
  case staZpx => exact ⟨_, _, rfl, r.zeroPageX.busWrite _ _, rfl⟩
  case staAbx => exact ⟨_, _, rfl, r.absoluteX.busWrite _ _, rfl⟩
  case staIndY => exact ⟨_, _, rfl, r.indirectY.busWrite _ _, rfl⟩
  case incZp | lsrZp | rorZp => exact ⟨_, _, rfl, r.modifyZeroPage _, rfl⟩
  case php | pha => exact ⟨_, _, rfl, r.implied.push _, rfl⟩
  case pla | plp => exact ⟨_, _, rfl, r.implied.dummyStackRead.pull, rfl⟩
  case jmpAbs => exact ⟨_, _, rfl, r.absolute.setPc _, rfl⟩
  case jsrAbs => exact ⟨_, _, rfl, ((r.fetch.dummyStackRead.push _).push _).fetch.setPc _, rfl⟩
  case rts => exact ⟨_, _, rfl, ((r.implied.dummyStackRead.pull.pull.setPc _).busRead _).setPc _, rfl⟩
  case bne | beq | bpl | bmi | bcc => exact exec_branch_accessSteps rfl rfl rfl

/-- Settles O52: the trace has grown by the accesses of `exec_accessSteps`. -/
theorem accessCountsAreExact : Obligations.AccessCountsAreExact := by
  intro i s
  obtain ⟨t, n, ht, hlen, hn⟩ := exec_accessSteps i s
  exact ⟨t, ht, by rw [hlen, ← hn, Nat.add_assoc]⟩

end Sys2Proof.Machine
end

section
/-! PROOF. Instruction-fetch coherence (20_memory.md R55): a store is what later fetches return. -/

namespace Sys2Proof.Machine

/-- A fetch from a byte that a store went to returns the byte stored, whatever accesses that do not store there came
between. -/
theorem fetch_performAll_busWrite {s : State} {p q : Addr} {v : Byte} {as : List Access} (hwf : s.ram.wf = true)
    (hsame : sameRamByte p q) (has : ∀ a ∈ as, ¬ a.storesTo q) :
    (fetch { performAll as (busWrite p v s) with pc := q }).1 = v := by
  have hbyte : (performAll as (busWrite p v s)).byteAt q = some v := by
    rw [byteAt_performAll has, busWrite_eq]
    exact byteAt_setRam_storeRam_same (s.observe [.write p v]) hwf hsame v
  rw [fetch_eq]
  exact congrArg (Option.getD · _) hbyte

/-- The second push of a JSR leaves the byte that the first stored, for it names another slot. -/
theorem byteAt_push_push {s : State} (hwf : s.ram.wf = true) {q : Addr} (hsame : sameRamByte (stackAddr s.sp) q)
    (v w : Byte) : (push w (push v s)).byteAt q = some v := by
  have hother : ¬ sameRamByte (stackAddr (push v s).sp) q := by
    rintro ⟨-, -, hmod⟩
    obtain ⟨-, -, hmod'⟩ := hsame
    rw [← hmod', push_sp, stackAddr_toNat, stackAddr_toNat] at hmod
    bv_omega
  rw [push_eq w, State.byteAt_setSp, ← State.observe_setRam, State.byteAt_observe,
    byteAt_setRam_storeRam_other _ hother, push_eq v, State.byteAt_setSp]
  exact byteAt_setRam_storeRam_same (s.observe [.write (stackAddr s.sp) v]) hwf hsame v

/-- A JSR whose first push stores into its own third byte fetches the byte stored. -/
theorem exec_jsrAbs_of_overwritten {s : State} (hwf : s.ram.wf = true)
    (hsame : sameRamByte (stackAddr s.sp) (s.pc + 1)) :
    ∃ t, exec .jsrAbs s = .next t ∧ t.pc = joinBytes (highByte (s.pc + 1)) s.byte1 := by
  have hbyte : s.jsrPushed.byteAt (s.pc + 1) = some (highByte (s.pc + 1)) := by
    rw [State.jsrPushed, fetch_ran, dummyStackRead_eq]
    exact byteAt_push_push (s := (s.ran 1 _).observe _) hwf hsame _ _
  have hpc : s.jsrPushed.pc = s.pc + 1 := by rw [jsrPushed_eq rfl]; rfl
  have hfetched : (fetch s.jsrPushed).1 = highByte (s.pc + 1) := by
    rw [fetch_eq, State.byte1, hpc, State.readWith, hbyte, Option.getD_some]
  exact ⟨_, exec_jsrAbs_eq s, by rw [State.setPc_pc, hfetched, fetch_eq]⟩

/-- Settles O55: the accesses between keep the byte, so does the JSR's second push, and in the cartridge range every
access does. -/
theorem storesAreSeenByLaterFetches : Obligations.StoresAreSeenByLaterFetches :=
  ⟨fun _ _ _ _ _ => fetch_performAll_busWrite, fun _ => exec_jsrAbs_of_overwritten,
    fun s _ _ hq => byteAt_performAll (fun a _ => Access.not_storesTo_of_cart hq a) s⟩

end Sys2Proof.Machine
end

section
/-! PROOF. The flags I, D, B and U (10_state.md R20): from two states that differ in P in those alone, every instruction
but PHP makes the same accesses and writes the same values, and no flag computation carries the difference further. -/

namespace Sys2Proof.Machine

/-! ### The used flags -/

/-- Two status bytes agree in C, Z, V and N. -/
def SameUsed (p q : Byte) : Prop := p &&& 0xC3 = q &&& 0xC3

namespace SameUsed

variable {p q : Byte} (h : SameUsed p q)

include h

/-- Each of the four reads alike. -/
theorem getFlag_eq {f : Flag} (hf : (0xC3 : Byte).getLsbD f.bit = true) : getFlag f q = getFlag f p := by
  have hbit : (p &&& 0xC3).getLsbD f.bit = (q &&& 0xC3).getLsbD f.bit := congrArg (·.getLsbD f.bit) h
  rw [BitVec.getLsbD_and, BitVec.getLsbD_and, hf, Bool.and_true, Bool.and_true] at hbit
  exact hbit.symm

/-! Every flag computation keeps the agreement. -/

theorem putFlag (f : Flag) (v : Bool) : SameUsed (putFlag f v p) (putFlag f v q) := by
  cases v
  case true =>
    have hor (p : Byte) : (p ||| f.mask) &&& 0xC3 = (p &&& 0xC3) ||| (f.mask &&& 0xC3) := by
      rw [BitVec.and_comm, BitVec.and_or_distrib_left, BitVec.and_comm, BitVec.and_comm f.mask]
    exact (hor p).trans ((congrArg (· ||| (f.mask &&& 0xC3)) h).trans (hor q).symm)
  case false =>
    have hand (p : Byte) : p &&& ~~~f.mask &&& 0xC3 = p &&& 0xC3 &&& ~~~f.mask := by
      rw [BitVec.and_assoc, BitVec.and_comm (~~~f.mask), BitVec.and_assoc]
    exact (hand p).trans ((congrArg (· &&& ~~~f.mask) h).trans (hand q).symm)

theorem setZN (v : Byte) : SameUsed (setZN v p) (setZN v q) := (h.putFlag .z _).putFlag .n _

theorem bitFlags (a m : Byte) : SameUsed (bitFlags a m p) (bitFlags a m q) :=
  ((h.putFlag .z _).putFlag .n _).putFlag .v _

theorem compareFlags (l m : Byte) : SameUsed (compareFlags l m p) (compareFlags l m q) :=
  ((h.putFlag .c _).putFlag .z _).putFlag .n _

theorem incByte (v : Byte) : (incByte q v).1 = (incByte p v).1 ∧ SameUsed (incByte p v).2 (incByte q v).2 :=
  ⟨rfl, h.setZN _⟩

theorem lsrByte (v : Byte) : (lsrByte q v).1 = (lsrByte p v).1 ∧ SameUsed (lsrByte p v).2 (lsrByte q v).2 :=
  ⟨rfl, (h.putFlag .c _).setZN _⟩

/-- The one flag that a result depends on is C. -/
theorem rorByte (v : Byte) : (rorByte q v).1 = (rorByte p v).1 ∧ SameUsed (rorByte p v).2 (rorByte q v).2 := by
  have hc := h.getFlag_eq (f := .c) rfl
  simp only [Machine.rorByte, hc, true_and]
  exact (h.putFlag .c _).setZN _

end SameUsed

/-! ### Two runs -/

/-- From `s` and from `s` with P replaced by `q`, the instruction leaves states that differ in P alone, and there in I,
D, B and U alone. -/
def RunsAlike (i : Instr) (s : State) (q : Byte) : Prop :=
  ∃ t r, exec i s = .next t ∧ exec i { s with p := q } = .next { t with p := r } ∧ SameUsed t.p r

/-- A branch whose condition is the same in both states; P is kept. -/
theorem runsAlike_branch {i : Instr} {s : State} {q : Byte} {cond : Byte → Bool}
    (hexec : ∀ s, exec i s = .next (branch cond s)) (h : SameUsed s.p q) (hcond : cond q = cond s.p) :
    RunsAlike i s q := by
  obtain ⟨hnot, hpage, hcross⟩ := exec_branch cond (hexec s)
  obtain ⟨hnot', hpage', hcross'⟩ := exec_branch cond (hexec { s with p := q })
  cases htaken : cond s.p with
  | false => exact ⟨_, q, hnot htaken, hnot' (hcond.trans htaken), h⟩
  | true =>
    by_cases hsame : highByte s.branchTarget = highByte (s.pc + 1)
    · exact ⟨_, q, hpage htaken hsame, hpage' (hcond.trans htaken) hsame, h⟩
    · exact ⟨_, q, hcross htaken hsame, hcross' (hcond.trans htaken) hsame, h⟩

/-- A read-modify-write whose operation gives the same result in both states. -/
theorem runsAlike_modifyZeroPage {i : Instr} {s : State} {q : Byte} {op : Byte → Byte → Byte × Byte}
    (hexec : ∀ s, exec i s = .next (modifyZeroPage op s))
    (hop : ∀ v, (op q v).1 = (op s.p v).1 ∧ SameUsed (op s.p v).2 (op q v).2) : RunsAlike i s q := by
  obtain ⟨hresult, hflags⟩ := hop s.zpValue
  refine ⟨_, (op q s.zpValue).2, exec_modifyZeroPage op (hexec s) rfl rfl, ?_, hflags⟩
  rw [← hresult]
  exact exec_modifyZeroPage op (hexec _) rfl rfl

/-- Every instruction but PHP runs alike: its accesses do not depend on P, but for a branch's and those of ROR. -/
theorem exec_runsAlike {i : Instr} {s : State} {q : Byte} (hi : i ≠ .php) (h : SameUsed s.p q) : RunsAlike i s q := by
  have hpull (u : State) := pull_dummyStackRead_implied u rfl rfl
  cases i
  case php => exact absurd rfl hi
  case tsx | tax | tay | tya | inx | iny | dex | dey =>
    simp only [RunsAlike, exec, execTsx, execTax, execTay, execTya, execInx, execIny, execDex, execDey, implied_eq]
    exact ⟨_, _, rfl, rfl, h.setZN _⟩
  case ldaImm | ldxImm | ldyImm | oraImm | eorImm =>
    simp only [RunsAlike, exec, execLdaImm, execLdxImm, execLdyImm, execOraImm, execEorImm, immediate_eq]
    exact ⟨_, _, rfl, rfl, h.setZN _⟩
  case ldaZp | ldxZp | ldyZp | oraZp | eorZp =>
    simp only [RunsAlike, exec, execLdaZp, execLdxZp, execLdyZp, execOraZp, execEorZp, zeroPageValue_eq]
    exact ⟨_, _, rfl, rfl, h.setZN _⟩
  case ldaAbs | ldxAbs | ldyAbs =>
    simp only [RunsAlike, exec, execLdaAbs, execLdxAbs, execLdyAbs, absoluteValue_eq]
    exact ⟨_, _, rfl, rfl, h.setZN _⟩
  case pla =>
    simp only [RunsAlike, exec, execPla, hpull]
    exact ⟨_, _, rfl, rfl, h.setZN _⟩
  case plp =>
    simp only [RunsAlike, exec, execPlp, hpull]
    exact ⟨_, _, rfl, rfl, rfl⟩
  case sei | cld =>
    simp only [RunsAlike, exec, execSei, execCld, implied_eq]
    exact ⟨_, _, rfl, rfl, h.putFlag _ _⟩
  case cmpImm | cpyImm =>
    simp only [RunsAlike, exec, execCmpImm, execCpyImm, immediate_eq]
    exact ⟨_, _, rfl, rfl, h.compareFlags _ _⟩
  case bitZp | bitAbs =>
    simp only [RunsAlike, exec, execBitZp, execBitAbs, zeroPageValue_eq, absoluteValue_eq]
    exact ⟨_, _, rfl, rfl, h.bitFlags _ _⟩
  case txs | pha =>
    simp only [RunsAlike, exec, execTxs, execPha, implied_eq, push_ran]
    exact ⟨_, _, rfl, rfl, h⟩
  case staZp | stxZp | styZp =>
    simp only [RunsAlike, exec, execStaZp, execStxZp, execStyZp, zeroPage_eq, busWrite_ran]
    exact ⟨_, _, rfl, rfl, h⟩
  case staAbs | stxAbs | styAbs | jmpAbs =>
    simp only [RunsAlike, exec, execStaAbs, execStxAbs, execStyAbs, execJmpAbs, absolute_eq, busWrite_ran]
    exact ⟨_, _, rfl, rfl, h⟩
  case staZpx | staAbx =>
    simp only [RunsAlike, exec, execStaZpx, execStaAbx, zeroPageX_eq, absoluteX_eq, busWrite_ran]
    exact ⟨_, _, rfl, rfl, h⟩
  case staIndY =>
    obtain ⟨-, hsta⟩ := staIndirectY
    exact ⟨_, _, hsta s _ _ _ rfl rfl rfl, hsta _ _ _ _ rfl rfl rfl, h⟩
  case jsrAbs =>
    obtain ⟨-, hjsr⟩ := jsrPushesThenFetchesTheHighByte
    exact ⟨_, _, hjsr s _ _ _ _ rfl rfl rfl rfl, hjsr _ _ _ _ _ rfl rfl rfl rfl, h⟩
  case rts =>
    obtain ⟨-, hrts⟩ := rtsPullsTheReturnAddress
    exact ⟨_, _, hrts s _ _ _ rfl rfl rfl, hrts _ _ _ _ rfl rfl rfl, h⟩
  case bne | beq => exact runsAlike_branch (fun _ => rfl) h (by simp only [h.getFlag_eq (f := .z) rfl])
  case bpl | bmi => exact runsAlike_branch (fun _ => rfl) h (by simp only [h.getFlag_eq (f := .n) rfl])
  case bcc => exact runsAlike_branch (fun _ => rfl) h (by simp only [h.getFlag_eq (f := .c) rfl])
  case incZp => exact runsAlike_modifyZeroPage (fun _ => rfl) h.incByte
  case lsrZp => exact runsAlike_modifyZeroPage (fun _ => rfl) h.lsrByte
  case rorZp => exact runsAlike_modifyZeroPage (fun _ => rfl) h.rorByte
  case rorAcc =>
    obtain ⟨hresult, hflags⟩ := h.rorByte s.a
    simp only [RunsAlike, exec, execRorAcc, accumulator, implied_eq, State.ran_p, hresult]
    exact ⟨_, _, rfl, rfl, hflags⟩

/-- Settles O53: two runs by `exec_runsAlike`, and PHP by what it pushes. -/
theorem unusedFlagsHaveNoEffect : Obligations.UnusedFlagsHaveNoEffect := by
  refine ⟨fun i s q hi h => exec_runsAlike hi h, fun s => ?_⟩
  obtain ⟨-, -, hpush⟩ := phpAndPhaPush
  obtain ⟨hphp, -⟩ := hpush s
  exact ⟨_, hphp, rfl, by simp⟩

end Sys2Proof.Machine
end
